-- ==== Sys2Proof/Word.lean ====
section
/-! DEFINITION. The word types of PTPROBE, one per width of 00_scope.md R5. -/

namespace Sys2Proof

/-- A 32-bit register of the host register space, a command word, or the timeout operand (R5 `TIMEOUT_W`, R62, R101). -/
abbrev Word := BitVec 32

/-- A `STATUS_W`-bit status code (R5, R117): only equality is ever computed on it (R7, R133). -/
abbrev StatusCode := BitVec 32

/-- A data byte: a register index, a register value, a bus handle or a pin number (R5 `REG_W`, `DATA_W`, `BUS_W`, `PIN_W`). -/
abbrev Byte := BitVec 8

/-- A 7-bit device address (R5 `ADDR_W`, R21, R61). -/
abbrev DevAddr := BitVec 7

/-- A delay in milliseconds (R5 `MS_W`). -/
abbrev Millis := BitVec 10

end Sys2Proof
end

