-- ==== Sys2Proof/Syntax.lean ====
section
/-! DEFINITION. The commands of PTPROBE (30_encoding.md R100), one constructor per row of spec/opcode_table.json, and
the assembler's terms (R115). -/

namespace Sys2Proof

/-- The four commands with their operands as R106 gives them: each the unsigned integer of its field. -/
inductive Instr where
  /-- `SCAN bus` (R102, R160). -/
  | scan (bus : Byte)
  /-- `DEVRST pin, low_ms, high_ms` (R103, R175). -/
  | devrst (pin : Byte) (lowMs highMs : Millis)
  /-- `RDREG bus, addr, reg` (R104, R190). -/
  | rdreg (bus : Byte) (addr : DevAddr) (reg : Byte)
  /-- `PROBE` (R105, R210). -/
  | probe
deriving DecidableEq, Repr

/-- A command as the assembler syntax of R115 writes it: numerals of any size. Not normative (R115). -/
inductive AsmLine where
  | scan (bus : Nat)
  | devrst (pin lowMs highMs : Nat)
  | rdreg (bus addr reg : Nat)
  | probe
deriving DecidableEq, Repr

end Sys2Proof
end

