-- ==== Sys2Proof/WellFormed.lean ====
section
/-! DEFINITION. Which terms are legal commands. An `Instr` carries each operand at its field's width, so every one is
legal (30_encoding.md R106, R112: a word is illegal by its opcode and reserved bits, never by an operand's value). The
range checks stand on the assembler's terms (R115: "an operand outside its field's range is an assembly error"). -/

namespace Sys2Proof

/-- No operand value of a command is illegal (R106, R112). -/
def Instr.wellFormed : Instr → Bool
  | .scan _ => true
  | .devrst _ _ _ => true
  | .rdreg _ _ _ => true
  | .probe => true

/-- Every operand lies in its field's range (R106, R115). -/
def AsmLine.wellFormed : AsmLine → Bool
  | .scan bus => bus < 256
  | .devrst pin lowMs highMs => pin < 256 && lowMs < 1024 && highMs < 1024
  | .rdreg bus addr reg => bus < 256 && addr < 128 && reg < 256
  | .probe => true

/-- The command an assembler line stands for; an operand out of range is an error, not a truncation (R115). -/
def AsmLine.assemble (l : AsmLine) : Option Instr :=
  if l.wellFormed then
    some (match l with
      | .scan bus => .scan (BitVec.ofNat 8 bus)
      | .devrst pin lowMs highMs => .devrst (BitVec.ofNat 8 pin) (BitVec.ofNat 10 lowMs) (BitVec.ofNat 10 highMs)
      | .rdreg bus addr reg => .rdreg (BitVec.ofNat 8 bus) (BitVec.ofNat 7 addr) (BitVec.ofNat 8 reg)
      | .probe => .probe)
  else none

end Sys2Proof
end

