-- ==== Sys2Proof/Decode.lean ====
section
/-! DEFINITION. Decoding a command word (30_encoding.md R101 to R107, R111 to R113) and encoding a command. -/

namespace Sys2Proof

/-- Why a word is illegal: the four cases of R112. -/
inductive IllegalWord where
  /-- R112 (a): the opcode is 0x0 or one of 0x5 to 0xF. -/
  | unusedOpcode (opcode : BitVec 4)
  /-- R112 (b): opcode 0x1 with `w[27:8] != 0`. -/
  | scanReserved
  /-- R112 (c): opcode 0x3 with `w[27:24] != 0` or `w[15] != 0`. -/
  | rdregReserved
  /-- R112 (d): opcode 0x4 with `w[27:0] != 0`. -/
  | probeReserved
deriving DecidableEq, Repr

/-- The field `w[hi:lo]` (R7). -/
def field (w : Word) (hi lo : Nat) : BitVec (hi - lo + 1) := w.extractLsb hi lo

/-- The four commands, or the reason the word is illegal. Total, and a function of the word alone (R111). -/
def decodeWord (w : Word) : Except IllegalWord Instr :=
  if field w 31 28 = 0x1#4 then
    if field w 27 8 = 0#20 then .ok (.scan (field w 7 0)) else .error .scanReserved
  else if field w 31 28 = 0x2#4 then
    .ok (.devrst (field w 27 20) (field w 19 10) (field w 9 0))
  else if field w 31 28 = 0x3#4 then
    if field w 27 24 = 0#4 ∧ field w 15 15 = 0#1 then
      .ok (.rdreg (field w 23 16) (field w 14 8) (field w 7 0))
    else .error .rdregReserved
  else if field w 31 28 = 0x4#4 then
    if field w 27 0 = 0#28 then .ok .probe else .error .probeReserved
  else .error (.unusedOpcode (field w 31 28))

/-- One word for each command, field by field as the formats S, D, G, P lay it out (R102 to R105). -/
def encode : Instr → Word
  | .scan bus => 0x1#4 ++ 0#20 ++ bus
  | .devrst pin lowMs highMs => 0x2#4 ++ pin ++ lowMs ++ highMs
  | .rdreg bus addr reg => 0x3#4 ++ 0#4 ++ bus ++ 0#1 ++ addr ++ reg
  | .probe => 0x4#4 ++ 0#28

/-- A row of the match and mask table (R107). -/
structure EncodingRow where
  mask : Word
  pattern : Word
deriving DecidableEq, Repr

/-- A word is the command of a row iff `(w AND mask) == match` (R107). -/
def EncodingRow.matchesWord (r : EncodingRow) (w : Word) : Bool := w &&& r.mask == r.pattern

/-- R107's row for SCAN. -/
def scanRow : EncodingRow := ⟨0xFFFFFF00, 0x10000000⟩
/-- R107's row for DEVRST. -/
def devrstRow : EncodingRow := ⟨0xF0000000, 0x20000000⟩
/-- R107's row for RDREG. -/
def rdregRow : EncodingRow := ⟨0xFF008000, 0x30000000⟩
/-- R107's row for PROBE. -/
def probeRow : EncodingRow := ⟨0xFFFFFFFF, 0x40000000⟩

/-- R107's table, in its order. -/
def encodingRows : List EncodingRow := [scanRow, devrstRow, rdregRow, probeRow]

/-- The row a command belongs to (R107). -/
def Instr.row : Instr → EncodingRow
  | .scan _ => scanRow
  | .devrst _ _ _ => devrstRow
  | .rdreg _ _ _ => rdregRow
  | .probe => probeRow

/-- The command word whose low `nbits` bits are those of `w` and whose other bits are 0. -/
def tableWord (nbits w : Nat) : Word := BitVec.ofNat 32 (w % 2 ^ nbits)

/-- The instruction the decoder reads from a table row's word (R101: every command is one 32-bit word). -/
def decodeTableWord (nbits w : Nat) : Option Instr := (decodeWord (tableWord nbits w)).toOption

end Sys2Proof
end

