-- ==== Sys2Proof/Config.lean ====
section
/-! DEFINITION. The implementation parameters of 00_scope.md R5 and R6, and the free values the spec leaves open. -/

namespace Sys2Proof

/-- What a write-phase NACK means (93_implementation_defined.md U2): the one specified value. The values the source
only mentions, absent and fault, have no meaning in any rule and cannot be written. -/
inductive WriteStatusPolicy where
  /-- WSTATUS_IGNORE (R194): the write-phase status is stored and not acted on. -/
  | ignore
deriving DecidableEq, Repr

/-- The three classes of a status code (30_encoding.md R117, 40_primitives.md R133). -/
inductive StatusClass where
  /-- Status 0. -/
  | success
  /-- AddressNotAcknowledged: status `NACK_CODE` (R231). -/
  | addrNack
  /-- TransportFault: every other status, a timeout among them (R135, R232). -/
  | transportFault
deriving DecidableEq, Repr

/-- The width parameters of R5. -/
structure Widths where
  /-- `ADDR_W`, of a device address. -/
  addrW : Nat
  /-- `REG_W`, of a register index. -/
  regW : Nat
  /-- `DATA_W`, of a register value. -/
  dataW : Nat
  /-- `BUS_W`, of a bus handle. -/
  busW : Nat
  /-- `PIN_W`, of a pin number. -/
  pinW : Nat
  /-- `MS_W`, of a delay duration in milliseconds. -/
  msW : Nat
  /-- `LEN_W`, of a descriptor length. -/
  lenW : Nat
  /-- `STATUS_W`, of a status code. -/
  statusW : Nat
  /-- `TIMEOUT_W`, of the timeout operand. -/
  timeoutW : Nat
  /-- `REPEAT_W`, of the repeat count. -/
  repeatW : Nat
deriving DecidableEq, Repr

/-- R5's values of the widths, the widths of the types of Word.lean and of State's fields. -/
def Widths.spec : Widths where
  addrW := 7
  regW := 8
  dataW := 8
  busW := 8
  pinW := 8
  msW := 10
  lenW := 16
  statusW := 32
  timeoutW := 32
  repeatW := 16

/-- The parameters of one instance of the block: every row of R5's table (R5, R57). The OPEN ones and the reference
values may be any value R6 allows; the structural ones (U8, R161) carry the law that fixes them. -/
structure Params where
  /-- The width parameters, fixed (`widths_eq`). -/
  widths : Widths
  /-- `NUM_ADDR`, the number of addresses a scan probes, fixed by the address width (`numAddr_eq`; R161, U8). -/
  numAddr : Nat
  /-- `LIST_MAX`, the capacity of each candidate list, fixed (`listMax_eq`; R53, R54). -/
  listMax : Nat
  /-- `NACK_CODE`, OPEN (R5, R6, U3). -/
  nackCode : StatusCode
  /-- `TIMEOUT_UNITS`, passed with every bus request (R5, R135). -/
  timeoutUnits : Word
  /-- `TIMEOUT_UNIT`, OPEN (R5, R6, U4): a duration, in a unit the spec does not name. No rule reads it (R285). -/
  timeoutUnit : Nat
  /-- `PLACEHOLDER`, loaded into the buffer before the read phase (R5, R195). -/
  placeholder : Byte
  /-- `REF_SETTLE_LOW_MS`, the reset value of `CFG_LOW_MS` (R5, R48). -/
  refSettleLowMs : Millis
  /-- `REF_SETTLE_HIGH_MS`, the reset value of `CFG_HIGH_MS` (R5, R49). -/
  refSettleHighMs : Millis
  /-- `REF_REPEAT`, the reset value of `CFG_REPEAT` (R5, R50). -/
  refRepeat : BitVec 16
  /-- The write-phase status policy (U2). -/
  writeStatusPolicy : WriteStatusPolicy
  widths_eq : widths = Widths.spec
  numAddr_eq : numAddr = 2 ^ widths.addrW
  listMax_eq : listMax = 16
  nackCode_ne_zero : nackCode ≠ 0
  timeoutUnit_pos : 0 < timeoutUnit
deriving DecidableEq, Repr

/-- Selects `NACK_CODE` among the 2^32 - 1 values R6 allows. -/
opaque Config.nackIndex : Fin 4294967295

/-- `NACK_CODE` of this instance: any 32-bit value but 0 (R6). -/
def Config.nackCode : StatusCode := BitVec.ofNat 32 (Config.nackIndex.val + 1)

/-- R6: `NACK_CODE != 0`. -/
theorem Config.nackCode_ne_zero : Config.nackCode ≠ 0 := by
  have h := Config.nackIndex.isLt
  intro h0
  have h1 : (Config.nackIndex.val + 1) % 2 ^ 32 = 0 := congrArg BitVec.toNat h0
  omega

/-- One less than `TIMEOUT_UNIT` (R6: positive). -/
opaque Config.timeoutUnitPred : Nat

/-- The parameters of this instance: R5's value for each, the two OPEN ones opaque. -/
def Config.params : Params where
  widths := Widths.spec
  numAddr := 128
  listMax := 16
  nackCode := Config.nackCode
  timeoutUnits := 1000
  timeoutUnit := Config.timeoutUnitPred + 1
  placeholder := 0
  refSettleLowMs := 20
  refSettleHighMs := 400
  refRepeat := 20
  writeStatusPolicy := .ignore
  widths_eq := rfl
  numAddr_eq := rfl
  listMax_eq := rfl
  nackCode_ne_zero := Config.nackCode_ne_zero
  timeoutUnit_pos := Nat.succ_pos _

/-! The free values. Each is applied to a counter of State, so that every draw is a fresh one (R70, U5, U6, U11). -/

/-- The status the bus primitive answers to a `BusWrite` (R70, U5). -/
opaque Config.oracleWriteStatus : Nat → StatusCode

/-- The status the bus primitive answers to a `BusRead` (R70, U5). -/
opaque Config.oracleReadStatus : Nat → StatusCode

/-- The byte a `BusRead` stores, when it stores one (R71, U6). -/
opaque Config.oracleReadByte : Nat → Byte

/-- Whether a `BusRead` with a non-zero status stores a byte (R71, U6). -/
opaque Config.oracleReadStores : Nat → Bool

/-- Whether a `PinDrive` answers `fault` (R70, R72). -/
opaque Config.oraclePinFault : Nat → Bool

/-- What a host read of `RDRES`, `LAST_WSTATUS` or `LAST_RSTATUS` returns while `BUSY == 1` (R43 to R45, U11). -/
opaque Config.busyReadValue : Nat → Word

end Sys2Proof
end

