-- ==== Sys2Proof/Machine/State.lean ====
section
/-! DEFINITION. The state of the machine: `Block`, exactly the elements of 10_state.md R20, and `World`, what stands
outside the block (R56): the host's next accesses, the environment's answers, and the record of what happened. -/

namespace Sys2Proof.Machine

/-- The sequencer phase `PH` (R26's table, its fourteen values). -/
inductive Phase where
  /-- `PH_IDLE`: waits for a command. -/
  | idle
  /-- `PH_S_PROBE`: the probe of address `A`. -/
  | sProbe
  /-- `PH_S_HIT`: `Report(SCAN_HIT)`. -/
  | sHit
  /-- `PH_S_FLUSH`: `Report(FLUSH)` of SCAN. -/
  | sFlush
  /-- `PH_D_LOW`: `PinDrive(O_PIN, 0)`. -/
  | dLow
  /-- `PH_D_WAITLOW`: `DelayMs(O_LOW)`. -/
  | dWaitLow
  /-- `PH_D_HIGH`: `PinDrive(O_PIN, 1)`. -/
  | dHigh
  /-- `PH_D_WAITHIGH`: `DelayMs(O_HIGH)`. -/
  | dWaitHigh
  /-- `PH_G_WRITE`: the write phase of a register read. -/
  | gWrite
  /-- `PH_G_READ`: the read phase of a register read. -/
  | gRead
  /-- `PH_P_NEXT`: loop control of the Probe Loop, no port call. -/
  | pNext
  /-- `PH_P_VALUE`: `Report(REG_VALUE)`. -/
  | pValue
  /-- `PH_P_MARK`: `Report(SWEEP_DONE)`. -/
  | pMark
  /-- `PH_P_FLUSH`: `Report(FLUSH)` of PROBE. -/
  | pFlush
deriving DecidableEq, Repr

/-- The operation in progress, `OPC` (R31). -/
inductive Opc where
  | idle
  | scan
  | devrst
  | rdreg
  | probe
deriving DecidableEq, Repr

/-- The transaction descriptor and its one-byte buffer (R21 to R24). -/
structure Desc where
  /-- `DESC_ADDR` (R21). -/
  addr : DevAddr
  /-- `DESC_LEN` (R22). -/
  len : BitVec 16
  /-- `DESC_VALID` (R23). -/
  valid : Bool
  /-- `BUF0` (R24). -/
  buf0 : Byte
deriving DecidableEq, Repr

/-- The operand latches (R25). -/
structure Latch where
  /-- `O_BUS`. -/
  bus : Byte
  /-- `O_PIN`. -/
  pin : Byte
  /-- `O_LOW`. -/
  low : Millis
  /-- `O_HIGH`. -/
  high : Millis
  /-- `O_ADDR`. -/
  addr : DevAddr
  /-- `O_REG`. -/
  reg : Byte
deriving DecidableEq, Repr

/-- The sequencer's position: `OPC`, `PH` and the counters (R26 to R31). -/
structure Sequencer where
  /-- `OPC` (R31). -/
  opc : Opc
  /-- `PH` (R26). -/
  ph : Phase
  /-- `A`, the scan address counter (R27). -/
  a : BitVec 8
  /-- `K`, the repetition index (R28). -/
  k : BitVec 16
  /-- `I`, the index into `CFG_ADDR` (R29). -/
  i : BitVec 5
  /-- `J`, the index into `CFG_REG` (R30). -/
  j : BitVec 5
deriving DecidableEq, Repr

/-- The six flags of `STATUS` (R32 to R37). -/
structure Flags where
  /-- `BUSY` (R32). -/
  busy : Bool
  /-- `DONE` (R33). -/
  done : Bool
  /-- `PINFAULT` (R34). -/
  pinfault : Bool
  /-- `STAGE` (R35). -/
  stage : Bool
  /-- `ILLEGAL` (R36). -/
  illegal : Bool
  /-- `OVERRUN` (R37). -/
  overrun : Bool
deriving DecidableEq, Repr

/-- The result latches (R43 to R45). -/
structure Results where
  /-- `RDRES.PRESENT` (R43). -/
  present : Bool
  /-- `RDRES.VALUE` (R43). -/
  value : Byte
  /-- `LAST_WSTATUS` (R44). -/
  lastWrite : StatusCode
  /-- `LAST_RSTATUS` (R45). -/
  lastRead : StatusCode
deriving DecidableEq, Repr

/-- The configuration registers (R46 to R54). -/
structure Cfg where
  /-- `CFG_BUS` (R46). -/
  bus : Byte
  /-- `CFG_PIN` (R47). -/
  pin : Byte
  /-- `CFG_LOW_MS` (R48). -/
  lowMs : Millis
  /-- `CFG_HIGH_MS` (R49). -/
  highMs : Millis
  /-- `CFG_REPEAT` (R50). -/
  repeatCount : BitVec 16
  /-- `CFG_NADDR` (R51). -/
  naddr : BitVec 5
  /-- `CFG_NREG` (R52). -/
  nreg : BitVec 5
  /-- `CFG_ADDR[0..15]` (R53). -/
  addrs : Vector DevAddr 16
  /-- `CFG_REG[0..15]` (R54). -/
  regs : Vector Byte 16
deriving DecidableEq, Repr

/-- The whole state of PTPROBE: the elements of R20 and nothing else. -/
structure Block where
  desc : Desc
  latch : Latch
  seq : Sequencer
  flags : Flags
  res : Results
  cfg : Cfg
deriving DecidableEq, Repr

/-- The answer to a `PinDrive` (R67, R138). -/
inductive PinAnswer where
  | ok
  | fault
deriving DecidableEq, Repr

/-- The answer to a `BusRead` (R66, R132) with the bus oracle's law R71: success means a byte was received. -/
structure ReadAnswer where
  status : StatusCode
  rx : Option Byte
  lawful : status = 0 → rx ≠ none
deriving DecidableEq, Repr

/-- A record of the report port (R118). -/
inductive Record where
  | scanHit (addr : DevAddr) (status : StatusCode)
  | regValue (addr : DevAddr) (reg value : Byte)
  | sweepDone
  | flush
deriving DecidableEq, Repr

/-- A port event (R10): a request with its fields (R66 to R69) and its response. -/
inductive PortEvent where
  /-- `BW(bus, addr, len, data, timeout, stop) -> st`. -/
  | bw (bus : Byte) (addr : DevAddr) (len : BitVec 16) (data : List Byte) (timeout : Word) (stop : Bool)
      (st : StatusCode)
  /-- `BR(bus, addr, len, timeout, stop) -> (st, rx)`. -/
  | br (bus : Byte) (addr : DevAddr) (len : BitVec 16) (timeout : Word) (stop : Bool)
      (st : StatusCode) (rx : Option Byte)
  /-- `PL(pin) -> r`: a `PinDrive` with level 0. -/
  | pl (pin : Byte) (r : PinAnswer)
  /-- `PH1(pin) -> r`: a `PinDrive` with level 1. -/
  | ph1 (pin : Byte) (r : PinAnswer)
  /-- `DL(d)`. -/
  | dl (duration : Millis)
  /-- `RP(rec)`. -/
  | rp (record : Record)
deriving DecidableEq, Repr

/-- Whose turn the next step is (R65, R79), and for the host's and the reset input's turns what happens in it. -/
inductive HostTurn where
  /-- The sequencer's turn: the host does nothing. -/
  | seq
  /-- `HostRead(off)` (R9, R62). -/
  | read (off : Nat)
  /-- `HostWrite(off, v)` (R9, R62). -/
  | write (off : Nat) (v : Word)
  /-- A block reset (R260). `carriedOut` says whether the request outstanding at that moment, if there is one, is
  carried out by its collaborator (R261). -/
  | reset (carriedOut : Bool)
deriving DecidableEq, Repr

/-- The four collaborators behind the master ports (60_exceptions.md R243). -/
inductive Collaborator where
  /-- The bus primitive (R66). -/
  | bus
  /-- The GPIO (R67). -/
  | gpio
  /-- The delay unit (R68). -/
  | delay
  /-- The report sink (R69). -/
  | sink
deriving DecidableEq, Repr

/-- What stands outside the block (R56). No field of it is state of PTPROBE: the log entries 1 to 5 say how each
stands for the host or for the environment. -/
structure World where
  /-- The turns to come, oldest first; an empty list is a silent host. -/
  host : List HostTurn
  /-- Answers to the `BusWrite` requests to come (R70). -/
  writeAnswers : List StatusCode
  /-- Answers to the `BusRead` requests to come (R70, R71). -/
  readAnswers : List ReadAnswer
  /-- Answers to the `PinDrive` requests to come (R70, R72). -/
  pinAnswers : List PinAnswer
  /-- How many answers have been drawn from the opaque oracle of Config. -/
  oracleDraws : Nat
  /-- `none`: the bus primitive answers every request (R71); `some n`: it answers `n` more and then none (R265, R277, U15). -/
  bus : Option Nat
  /-- The same of the GPIO (R72). -/
  gpio : Option Nat
  /-- The same of the delay unit (R72). -/
  delay : Option Nat
  /-- The same of the sink: how many more records it takes (R73). -/
  sink : Option Nat
  /-- The port events so far, oldest first (R10). -/
  trace : List PortEvent
  /-- The offset and value of every host read so far, oldest first. -/
  reads : List (Nat × Word)
  /-- How many unspecified busy reads have been drawn (R43 to R45). -/
  readDraws : Nat
deriving DecidableEq, Repr

/-- The machine: the block and the world it stands in. -/
structure State where
  block : Block
  world : World
deriving DecidableEq, Repr

/-- Why a step stops with a fault. The spec gives the machine no such stop (60_exceptions.md R230): PinFault,
IllegalCommand and Overrun are next states. -/
inductive Fault where
  /-- Raised by a sequencer step in a state that R26 to R30 rule out: an (`OPC`, `PH`) pair that R26's table does not
  list, a probe with `A >= NUM_ADDR`, or a list index of 16 or more. No run reaches one; safe. -/
  | strayState (opc : Opc) (ph : Phase)
deriving DecidableEq, Repr

/-- Why a step is refused. -/
inductive Refusal where
  /-- Raised by `exec`'s arm of an instruction without a meaning; safe. No arm answers it: every row of the opcode
  table has its meaning. -/
  | notModelled (mnemonic : String)
deriving DecidableEq, Repr

/-- The block after a block reset (R58, R260). -/
def Block.reset (P : Params) : Block where
  desc := { addr := 0, len := 0, valid := false, buf0 := 0 }
  latch := { bus := 0, pin := 0, low := 0, high := 0, addr := 0, reg := 0 }
  seq := { opc := .idle, ph := .idle, a := 0, k := 0, i := 0, j := 0 }
  flags := { busy := false, done := false, pinfault := false, stage := false, illegal := false, overrun := false }
  res := { present := false, value := 0, lastWrite := 0, lastRead := 0 }
  cfg := { bus := 0, pin := 0, lowMs := P.refSettleLowMs, highMs := P.refSettleHighMs,
           repeatCount := P.refRepeat, naddr := 0, nreg := 0,
           addrs := Vector.replicate 16 0, regs := Vector.replicate 16 0 }

/-- The world before anything has happened: a silent host, collaborators that answer every request, nothing recorded
(DESIGN CHOICE, log entries 1 to 5). -/
def World.initial : World where
  host := []
  writeAnswers := []
  readAnswers := []
  pinAnswers := []
  oracleDraws := 0
  bus := none
  gpio := none
  delay := none
  sink := none
  trace := []
  reads := []
  readDraws := 0

/-- The machine right after reset (R58, R260). -/
def State.reset : State where
  block := Block.reset Config.params
  world := World.initial

end Sys2Proof.Machine
end

