-- ==== Sys2Proof/Machine/Flags.lean ====
section
/-! DEFINITION. Every flag computation of 10_state.md R32 to R38 and the `STATUS` word of R42. -/

namespace Sys2Proof.Machine

/-- One bit as a one-bit field. -/
def bit (b : Bool) : BitVec 1 := BitVec.ofBool b

/-- `{26'b0, OVERRUN, ILLEGAL, STAGE, PINFAULT, DONE, BUSY}` (R42). -/
def Flags.statusWord (f : Flags) : Word :=
  0#26 ++ bit f.overrun ++ bit f.illegal ++ bit f.stage ++ bit f.pinfault ++ bit f.done ++ bit f.busy

/-- What a taken `CMD` write clears, before the word is decoded (R41). -/
def Flags.cleared (f : Flags) : Flags :=
  { f with done := false, pinfault := false, stage := false, illegal := false, overrun := false }

/-- A legal command is accepted (R32, R110). -/
def Flags.accepted (f : Flags) : Flags := { f.cleared with busy := true }

/-- A taken write of an illegal word (R36, R234). -/
def Flags.illegalTaken (f : Flags) : Flags := { f.cleared with illegal := true }

/-- A write to `CMD` or a configuration register while busy (R37, R235). -/
def Flags.overran (f : Flags) : Flags := { f with overrun := true }

/-- The operation ends normally (R33). -/
def Flags.completed (f : Flags) : Flags := { f with busy := false, done := true }

/-- The operation is abandoned because a drive of level `stage` failed (R34, R35, R233). -/
def Flags.pinFaulted (stage : Bool) (f : Flags) : Flags :=
  { f with busy := false, pinfault := true, stage := stage }

end Sys2Proof.Machine
end

