-- ==== Sys2Proof/Machine/Operands.lean ====
section
/-! DEFINITION. The operand forms: the latches and counters each command loads at acceptance (30_encoding.md R110's
table, 10_state.md R25), the per-read operands of PROBE (44_probe.md R213), and the populate steps of the descriptor
(R162, R192, R195). -/

namespace Sys2Proof.Machine

/-- The low seven bits `A[6:0]` of the scan counter: the address probed (R27). -/
def Sequencer.scanAddr (q : Sequencer) : DevAddr := q.a.truncate 7

/-- SCAN: `O_BUS <- bus`, `A <- 0`, first phase `PH_S_PROBE` (R110). -/
def Block.loadScan (bus : Byte) (b : Block) : Block :=
  { b with latch := { b.latch with bus := bus }
           seq := { b.seq with opc := .scan, ph := .sProbe, a := 0 } }

/-- DEVRST: `O_PIN`, `O_LOW`, `O_HIGH` from the word, first phase `PH_D_LOW` (R110). -/
def Block.loadDevrst (pin : Byte) (lowMs highMs : Millis) (b : Block) : Block :=
  { b with latch := { b.latch with pin := pin, low := lowMs, high := highMs }
           seq := { b.seq with opc := .devrst, ph := .dLow } }

/-- RDREG: `O_BUS`, `O_ADDR`, `O_REG` from the word, first phase `PH_G_WRITE` (R110). -/
def Block.loadRdreg (bus : Byte) (addr : DevAddr) (reg : Byte) (b : Block) : Block :=
  { b with latch := { b.latch with bus := bus, addr := addr, reg := reg }
           seq := { b.seq with opc := .rdreg, ph := .gWrite } }

/-- PROBE: `O_BUS`, `O_PIN`, `O_LOW`, `O_HIGH` from the configuration registers, `K`, `I`, `J` cleared, first phase
`PH_D_LOW` (R25, R110). -/
def Block.loadProbe (b : Block) : Block :=
  { b with latch := { b.latch with bus := b.cfg.bus, pin := b.cfg.pin, low := b.cfg.lowMs, high := b.cfg.highMs }
           seq := { b.seq with opc := .probe, ph := .dLow, k := 0, i := 0, j := 0 } }

/-- Before a register read of PROBE: `O_ADDR <- CFG_ADDR[I]`, `O_REG <- CFG_REG[J]` (R213); `none` when an index is no
index of its list, which R29 and R30 rule out. -/
def Block.loadPair (b : Block) : Option Block :=
  match b.cfg.addrs[b.seq.i.toNat]?, b.cfg.regs[b.seq.j.toNat]? with
  | some addr, some reg => some { b with latch := { b.latch with addr := addr, reg := reg } }
  | _, _ => none

/-- Populate step of a scan probe: `DESC_ADDR <- A[6:0]`, `DESC_LEN <- 0`, `DESC_VALID <- 1`; `BUF0` is not written (R162). -/
def Block.populateProbe (b : Block) : Block :=
  { b with desc := { b.desc with addr := b.seq.scanAddr, len := 0, valid := true } }

/-- Populate step of the write phase: `BUF0 <- O_REG`, `DESC_LEN <- 1`, `DESC_ADDR <- O_ADDR`, `DESC_VALID <- 1` (R192). -/
def Block.populateWrite (b : Block) : Block :=
  { b with desc := { addr := b.latch.addr, len := 1, valid := true, buf0 := b.latch.reg } }

/-- Populate step of the read phase: `BUF0 <- PLACEHOLDER`, `DESC_LEN <- 1`, `DESC_ADDR` keeps `O_ADDR`, `DESC_VALID <- 1` (R195). -/
def Block.populateRead (P : Params) (b : Block) : Block :=
  { b with desc := { b.desc with len := 1, valid := true, buf0 := P.placeholder } }

end Sys2Proof.Machine
end

