-- ==== Sys2Proof/Machine/Ops.lean ====
section
/-! DEFINITION. The shared operations: the environment's answers (20_memory.md R70 to R73), the four port operations
(40_primitives.md R130 to R143), taking and turning away a command (R41, R110), the normal end of an operation (R33), and
PinFault (R233) with what ends it (R239). -/

namespace Sys2Proof.Machine

/-- What a step answers. -/
abbrev StepResult := Host.Outcome State Fault Refusal

/-- The class of a status code (R117). The block itself only ever tests for `NACK_CODE` (R133). -/
def statusClass (P : Params) (st : StatusCode) : StatusClass :=
  if st = 0 then .success else if st = P.nackCode then .addrNack else .transportFault

/-! ## The environment's answers -/

/-- How many more requests a collaborator answers; `none` for one that answers every request. -/
def World.left (w : World) : Collaborator → Option Nat
  | .bus => w.bus
  | .gpio => w.gpio
  | .delay => w.delay
  | .sink => w.sink

/-- The world whose collaborator `c` answers `n` more requests. -/
def World.withLeft (w : World) (n : Option Nat) : Collaborator → World
  | .bus => { w with bus := n }
  | .gpio => { w with gpio := n }
  | .delay => { w with delay := n }
  | .sink => { w with sink := n }

/-- The collaborator `c` answers one more request, or has stopped answering: R71 to R73 are its promise to answer, and
R265, R277 and U15 say what a missing response does. -/
def World.serves (c : Collaborator) (w : World) : Option World :=
  match w.left c with
  | none => some w
  | some 0 => none
  | some (n + 1) => some (w.withLeft (some n) c)

/-- The status of a `BusWrite` that is answered: the next one listed, else a free value (R70). -/
def World.drawWrite (w : World) : StatusCode × World :=
  match w.writeAnswers with
  | st :: rest => (st, { w with writeAnswers := rest })
  | [] => (Config.oracleWriteStatus w.oracleDraws, { w with oracleDraws := w.oracleDraws + 1 })

/-- The oracle's `n`th answer to a `BusRead`: any status, and a byte whenever the status is 0 (R71). -/
def oracleReadAnswer (n : Nat) : ReadAnswer where
  status := Config.oracleReadStatus n
  rx := if Config.oracleReadStatus n = 0 ∨ Config.oracleReadStores n = true then some (Config.oracleReadByte n) else none
  lawful := fun h => by simp [h]

/-- The response of a `BusRead` that is answered: the next one listed, else a free value obeying R71 (R70). -/
def World.drawRead (w : World) : ReadAnswer × World :=
  match w.readAnswers with
  | r :: rest => (r, { w with readAnswers := rest })
  | [] => (oracleReadAnswer w.oracleDraws, { w with oracleDraws := w.oracleDraws + 1 })

/-- The response of a `PinDrive` that is answered: the next one listed, else a free value (R70, R72). -/
def World.drawPin (w : World) : PinAnswer × World :=
  match w.pinAnswers with
  | r :: rest => (r, { w with pinAnswers := rest })
  | [] => (if Config.oraclePinFault w.oracleDraws then .fault else .ok, { w with oracleDraws := w.oracleDraws + 1 })

/-- The answer to a `BusWrite` and the world after it; `none` while the bus primitive does not answer. -/
def World.nextWriteAnswer (w : World) : Option (StatusCode × World) := (w.serves .bus).map World.drawWrite

/-- The answer to a `BusRead` and the world after it; `none` while the bus primitive does not answer. -/
def World.nextReadAnswer (w : World) : Option (ReadAnswer × World) := (w.serves .bus).map World.drawRead

/-- The answer to a `PinDrive` and the world after it; `none` while the GPIO does not answer. -/
def World.nextPinAnswer (w : World) : Option (PinAnswer × World) := (w.serves .gpio).map World.drawPin

/-- The sink takes one more record, or has stopped taking records (R73, R277). -/
def World.sinkTakes (w : World) : Option World := w.serves .sink

/-- One more port event (R10), in program order (R75). -/
def World.record (e : PortEvent) (w : World) : World := { w with trace := w.trace ++ [e] }

/-! ## The port operations -/

/-- The data of a write request: `[BUF0]` when the length is 1, the empty list when it is 0 (R66, R131). -/
def Desc.payload (d : Desc) : List Byte := if d.len = 1 then [d.buf0] else []

/-- A `BusWrite` of the populated descriptor has been answered with `st`, leaving the world `w`: the status goes to
`LAST_WSTATUS`, then `DESC_VALID <- 0`; `BUF0` is not changed (R131, R135, R137). -/
def State.afterWrite (P : Params) (stop : Bool) (st : StatusCode) (w : World) (s : State) : State :=
  { block := { s.block with
      res := { s.block.res with lastWrite := st }
      desc := { s.block.desc with valid := false } }
    world := w.record
      (.bw s.block.latch.bus s.block.desc.addr s.block.desc.len s.block.desc.payload P.timeoutUnits stop st) }

/-- `BusWrite(O_BUS, DESC_ADDR, DESC_LEN, data, TIMEOUT_UNITS, stop)` of the populated descriptor (R131); `none` while it
is not answered. -/
def State.busWrite (P : Params) (stop : Bool) (s : State) : Option State :=
  s.world.nextWriteAnswer.map fun a => s.afterWrite P stop a.1 a.2

/-- A `BusRead` of the populated descriptor has been answered with `r`, leaving the world `w`: a received byte goes to
`BUF0`, the status to `LAST_RSTATUS`, then `DESC_VALID <- 0` (R132, R135, R137). -/
def State.afterRead (P : Params) (stop : Bool) (r : ReadAnswer) (w : World) (s : State) : State :=
  { block := { s.block with
      res := { s.block.res with lastRead := r.status }
      desc := { s.block.desc with valid := false, buf0 := r.rx.getD s.block.desc.buf0 } }
    world := w.record
      (.br s.block.latch.bus s.block.desc.addr s.block.desc.len P.timeoutUnits stop r.status r.rx) }

/-- `BusRead(O_BUS, DESC_ADDR, DESC_LEN, TIMEOUT_UNITS, stop)` of the populated descriptor (R132); `none` while it is not
answered. -/
def State.busRead (P : Params) (stop : Bool) (s : State) : Option State :=
  s.world.nextReadAnswer.map fun a => s.afterRead P stop a.1 a.2

/-- The event of a `PinDrive` (R10, R67): level 0 is `set_low`, level 1 is `set_high`. -/
def pinEvent (pin : Byte) (level : Bool) (r : PinAnswer) : PortEvent :=
  if level then .ph1 pin r else .pl pin r

/-- One port event that changes no state of the block has happened, leaving the world `w`: a drive (R138), a delay (R140)
or a report (R142). -/
def State.afterEvent (e : PortEvent) (w : World) (s : State) : State := { s with world := w.record e }

/-- `PinDrive(O_PIN, level)`: the answer and the state after it (R138); `none` while it is not answered. -/
def State.pinDrive (level : Bool) (s : State) : Option (PinAnswer × State) :=
  s.world.nextPinAnswer.map fun a => (a.1, s.afterEvent (pinEvent s.block.latch.pin level a.1) a.2)

/-- `DelayMs(d)`: issued for `d = 0` too (R140, R141); `none` while it is not answered. -/
def State.delayMs (d : Millis) (s : State) : Option State :=
  (s.world.serves .delay).map fun w => s.afterEvent (.dl d) w

/-- `Report(rec)`: `none` while the sink does not take the record (R142, R277). -/
def State.report (r : Record) (s : State) : Option State :=
  s.world.sinkTakes.map fun w => s.afterEvent (.rp r) w

/-- A step from `s`, whose one request is outstanding, to `next` of the state after its answer; without an answer the
sequencer waits in `s` (R165, R265, R277, U15). -/
def State.await (answered : Option State) (next : State → State) (s : State) : StepResult :=
  match answered with
  | none => .next s
  | some t => .next (next t)

/-- A step whose one port call is `Report(rec)`. -/
def State.reportThen (r : Record) (next : State → State) (s : State) : StepResult := s.await (s.report r) next

/-- A step whose one port call is `DelayMs(d)`. -/
def State.delayThen (d : Millis) (next : State → State) (s : State) : StepResult := s.await (s.delayMs d) next

/-! ## The sequencer's moves -/

/-- `PH <- p` (R9, R26). -/
def State.toPhase (p : Phase) (s : State) : State :=
  { s with block := { s.block with seq := { s.block.seq with ph := p } } }

/-- The normal end of an operation: `BUSY <- 0`, `DONE <- 1`, `OPC <- IDLE`, `PH <- PH_IDLE` (R33). -/
def State.complete (s : State) : State :=
  { s with block := { s.block with
      flags := s.block.flags.completed
      seq := { s.block.seq with opc := .idle, ph := .idle } } }

/-- `raise PinFault(stage)` (R233): `PINFAULT <- 1`, `STAGE <- stage`, `BUSY <- 0`, `OPC <- IDLE`, `PH <- PH_IDLE`;
nothing else is saved (R238). There is no return from it (R239): `State.takeCommand` and `State.takeIllegal`, the next
taken `CMD` write, clear the flags. -/
def State.raisePinFault (stage : Bool) (s : State) : State :=
  { s with block := { s.block with
      flags := s.block.flags.pinFaulted stage
      seq := { s.block.seq with opc := .idle, ph := .idle } } }

/-- `A <- A + 1` and on to the next probe, or to the flush when all `NUM_ADDR` addresses are done (R27, R161, R166). -/
def State.scanAdvance (P : Params) (s : State) : State :=
  { s with block := { s.block with
      seq := { s.block.seq with
        a := s.block.seq.a + 1
        ph := if (s.block.seq.a + 1).toNat = P.numAddr then .sFlush else .sProbe } } }

/-- `J <- J + 1` and on to the loop control (R216, R217). -/
def State.probeAdvance (s : State) : State :=
  { s with block := { s.block with seq := { s.block.seq with j := s.block.seq.j + 1, ph := .pNext } } }

/-- The result of a register read (R197): absent with value 0x00 if the read phase returned `NACK_CODE`, else the byte
in `BUF0`. -/
def State.latchResult (P : Params) (s : State) : State :=
  { s with block := { s.block with
      res := if s.block.res.lastRead = P.nackCode then { s.block.res with present := false, value := 0 }
             else { s.block.res with present := true, value := s.block.desc.buf0 } } }

/-- The write-phase status policy (R194, U2): whatever the status, the read phase follows. -/
def phaseAfterWrite : WriteStatusPolicy → Phase
  | .ignore => .gRead

/-! ## Host writes to `CMD` -/

/-- A write to `CMD` or a configuration register while `BUSY == 1`: dropped, `OVERRUN <- 1` (R37, R41, R55, R235). -/
def State.overrun (s : State) : State :=
  { s with block := { s.block with flags := s.block.flags.overran } }

/-- A `CMD` write of a legal word whose operands `load` latches (R41, R110): taken when idle, dropped when busy. No
port request is issued (R110). -/
def State.takeCommand (load : Block → Block) (s : State) : State :=
  if s.block.flags.busy then s.overrun
  else { s with block := load { s.block with flags := s.block.flags.accepted } }

/-- A `CMD` write of an illegal word (R36, R41, R112, R234): taken when idle, dropped when busy. -/
def State.takeIllegal (s : State) : State :=
  if s.block.flags.busy then s.overrun
  else { s with block := { s.block with flags := s.block.flags.illegalTaken } }

end Sys2Proof.Machine
end

