-- ==== Sys2Proof/Machine/Devrst.lean ====
section
/-! DEFINITION. DEVRST, the Device Resettor, and the reset sequence it shares with PROBE (42_devrst.md). -/

namespace Sys2Proof.Machine

/-- `DEVRST pin, low_ms, high_ms` taken (R110, R175): the operation then runs in the phases `PH_D_LOW` to
`PH_D_WAITHIGH`. -/
def execDevrst (pin : Byte) (lowMs highMs : Millis) (s : State) : StepResult :=
  .next (s.takeCommand (Block.loadDevrst pin lowMs highMs))

/-- A drive step of the reset sequence (R139, R181): on `ok` go on to `next`, on `fault` raise PinFault with
`stage = level`; without an answer wait (R277). -/
def seqDrive (level : Bool) (next : Phase) (s : State) : StepResult :=
  match s.pinDrive level with
  | none => .next s
  | some (.ok, t) => .next (t.toPhase next)
  | some (.fault, t) => .next (t.raisePinFault level)

/-- `PH_D_LOW` (R176, R179, R181). -/
def seqResetLow (s : State) : StepResult := seqDrive false .dWaitLow s

/-- `PH_D_WAITLOW` (R177, R181). -/
def seqResetWaitLow (s : State) : StepResult := s.delayThen s.block.latch.low (State.toPhase .dHigh)

/-- `PH_D_HIGH` (R176, R180, R181). -/
def seqResetHigh (s : State) : StepResult := seqDrive true .dWaitHigh s

/-- `PH_D_WAITHIGH` (R178, R181): one delay for the whole of `high_ms`; then DEVRST is complete, PROBE goes on to its
sweeps. -/
def seqResetWaitHigh (s : State) : StepResult :=
  s.delayThen s.block.latch.high fun t => if t.block.seq.opc = .probe then t.toPhase .pNext else t.complete

end Sys2Proof.Machine
end

