-- ==== Sys2Proof/Machine/Probe.lean ====
section
/-! DEFINITION. PROBE, the Probe Loop (44_probe.md). Its reset sequence is Machine/Devrst.lean's, its register reads are
Machine/Rdreg.lean's (R211, R214). -/

namespace Sys2Proof.Machine

/-- `PROBE` taken (R110, R210): the operation then runs in the phases of the reset sequence, of the register read, and
`PH_P_NEXT` to `PH_P_FLUSH`. -/
def execProbe (s : State) : StepResult := .next (s.takeCommand Block.loadProbe)

/-- `PH_P_NEXT` (R213, R216, R217): the conditions of R217 in its order. -/
def seqProbeNext (s : State) : StepResult :=
  if s.block.seq.k = s.block.cfg.repeatCount then .next s.complete
  else if s.block.seq.i = s.block.cfg.naddr then .next (s.toPhase .pMark)
  else if s.block.seq.j = s.block.cfg.nreg then
    .next { s with block := { s.block with seq := { s.block.seq with i := s.block.seq.i + 1, j := 0, ph := .pNext } } }
  else
    match s.block.loadPair with
    | some b => .next (State.toPhase .gWrite { s with block := b })
    | none => .fault (.strayState s.block.seq.opc s.block.seq.ph)

/-- `PH_P_VALUE` (R215, R217): the value comes from `RDRES.VALUE`, not from `BUF0` (R272). -/
def seqProbeValue (s : State) : StepResult :=
  s.reportThen (.regValue s.block.latch.addr s.block.latch.reg s.block.res.value) State.probeAdvance

/-- `PH_P_MARK` (R217, R218). -/
def seqProbeMark (s : State) : StepResult := s.reportThen .sweepDone (State.toPhase .pFlush)

/-- `K <- K + 1`, `I <- 0`, `J <- 0`, on to the loop control (R217). -/
def State.nextSweep (s : State) : State :=
  { s with block := { s.block with seq := { s.block.seq with k := s.block.seq.k + 1, i := 0, j := 0, ph := .pNext } } }

/-- `PH_P_FLUSH` (R217, R218). -/
def seqProbeFlush (s : State) : StepResult := s.reportThen .flush State.nextSweep

end Sys2Proof.Machine
end

