-- ==== Sys2Proof/Machine/Rdreg.lean ====
section
/-! DEFINITION. RDREG, the Register Reader, and the register read it shares with PROBE (43_rdreg.md). -/

namespace Sys2Proof.Machine

/-- `RDREG bus, addr, reg` taken (R110, R190): the operation then runs in the phases `PH_G_WRITE`, `PH_G_READ`. -/
def execRdreg (bus : Byte) (addr : DevAddr) (reg : Byte) (s : State) : StepResult :=
  .next (s.takeCommand (Block.loadRdreg bus addr reg))

/-- `PH_G_WRITE` (R192 to R194, R200): the register index goes out with the bus held; the status is stored and not
acted on. -/
def seqRegWrite (P : Params) (s : State) : StepResult :=
  let s := { s with block := s.block.populateWrite }
  s.await (s.busWrite P false) (State.toPhase (phaseAfterWrite P.writeStatusPolicy))

/-- `PH_G_READ` (R195 to R198, R200): read one byte, release the bus, latch the result. RDREG is then complete; PROBE
reports a value or advances past an absent device. -/
def seqRegRead (P : Params) (s : State) : StepResult :=
  let s := { s with block := s.block.populateRead P }
  s.await (s.busRead P true) fun u =>
    let t := u.latchResult P
    if t.block.seq.opc = .probe then
      if t.block.res.lastRead = P.nackCode then t.probeAdvance else t.toPhase .pValue
    else t.complete

end Sys2Proof.Machine
end

