-- ==== Sys2Proof/Machine/Scan.lean ====
section
/-! DEFINITION. SCAN, the Bus Scanner (41_scan.md). -/

namespace Sys2Proof.Machine

/-- `SCAN bus` taken (R110, R160): the operation then runs in the phases `PH_S_PROBE`, `PH_S_HIT`, `PH_S_FLUSH`. -/
def execScan (bus : Byte) (s : State) : StepResult := .next (s.takeCommand (Block.loadScan bus))

/-- `PH_S_PROBE` (R162 to R164, R166): probe address `A`; a hit is any status but `NACK_CODE`. -/
def seqScanProbe (P : Params) (s : State) : StepResult :=
  if P.numAddr ≤ s.block.seq.a.toNat then .fault (.strayState s.block.seq.opc s.block.seq.ph)
  else
    let s := { s with block := s.block.populateProbe }
    s.await (s.busWrite P true) fun t =>
      if t.block.res.lastWrite = P.nackCode then t.scanAdvance P else t.toPhase .sHit

/-- `PH_S_HIT` (R165, R166): report the hit with all 32 bits of the status. -/
def seqScanHit (P : Params) (s : State) : StepResult :=
  if P.numAddr ≤ s.block.seq.a.toNat then .fault (.strayState s.block.seq.opc s.block.seq.ph)
  else s.reportThen (.scanHit s.block.seq.scanAddr s.block.res.lastWrite) (State.scanAdvance P)

/-- `PH_S_FLUSH` (R166, R167). -/
def seqScanFlush (s : State) : StepResult := s.reportThen .flush State.complete

end Sys2Proof.Machine
end

