-- ==== Sys2Proof/Machine/Sequencer.lean ====
section
/-! DEFINITION. One step of the sequencer (10_state.md R26, 20_memory.md R79). -/

namespace Sys2Proof.Machine

/-- The last column of R26's table: which operation passes through which phase. `PH_IDLE` goes with `OPC = IDLE` and
with nothing else. -/
def Phase.usedBy : Phase → Opc → Bool
  | .idle, .idle => true
  | .sProbe, .scan => true
  | .sHit, .scan => true
  | .sFlush, .scan => true
  | .dLow, .devrst => true
  | .dLow, .probe => true
  | .dWaitLow, .devrst => true
  | .dWaitLow, .probe => true
  | .dHigh, .devrst => true
  | .dHigh, .probe => true
  | .dWaitHigh, .devrst => true
  | .dWaitHigh, .probe => true
  | .gWrite, .rdreg => true
  | .gWrite, .probe => true
  | .gRead, .rdreg => true
  | .gRead, .probe => true
  | .pNext, .probe => true
  | .pValue, .probe => true
  | .pMark, .probe => true
  | .pFlush, .probe => true
  | _, _ => false

/-- The collaborator behind the one port call of a phase (R26's table); none where the phase has no port call. -/
def Phase.collaborator : Phase → Option Collaborator
  | .idle => none
  | .sProbe => some .bus
  | .sHit => some .sink
  | .sFlush => some .sink
  | .dLow => some .gpio
  | .dWaitLow => some .delay
  | .dHigh => some .gpio
  | .dWaitHigh => some .delay
  | .gWrite => some .bus
  | .gRead => some .bus
  | .pNext => none
  | .pValue => some .sink
  | .pMark => some .sink
  | .pFlush => some .sink

/-- The step of each phase. -/
def phaseStep (P : Params) (s : State) : Phase → StepResult
  | .idle => .next s
  | .sProbe => seqScanProbe P s
  | .sHit => seqScanHit P s
  | .sFlush => seqScanFlush s
  | .dLow => seqResetLow s
  | .dWaitLow => seqResetWaitLow s
  | .dHigh => seqResetHigh s
  | .dWaitHigh => seqResetWaitHigh s
  | .gWrite => seqRegWrite P s
  | .gRead => seqRegRead P s
  | .pNext => seqProbeNext s
  | .pValue => seqProbeValue s
  | .pMark => seqProbeMark s
  | .pFlush => seqProbeFlush s

/-- One step of the sequencer: in phase `PH`, perform the one port call or none, consume its response, update the
state and set `PH` (R26). An idle block waits (R246). -/
def seqStep (P : Params) (s : State) : StepResult :=
  if s.block.seq.ph.usedBy s.block.seq.opc then phaseStep P s s.block.seq.ph
  else .fault (.strayState s.block.seq.opc s.block.seq.ph)

end Sys2Proof.Machine
end

