-- ==== Sys2Proof/Machine/Dispatch.lean ====
section
/-! DEFINITION. `exec`: taking the command an instruction stands for (10_state.md R41, 30_encoding.md R110). -/

namespace Sys2Proof.Machine

def exec (i : Instr) (s : State) : Host.Outcome State Fault Refusal :=
  match i with
  | .scan bus => Sys2Proof.Machine.execScan bus s
  | .devrst pin lowMs highMs => Sys2Proof.Machine.execDevrst pin lowMs highMs s
  | .rdreg bus addr reg => Sys2Proof.Machine.execRdreg bus addr reg s
  | .probe => Sys2Proof.Machine.execProbe s

end Sys2Proof.Machine
end

