-- ==== Sys2Proof/Machine/HostPort.lean ====
section
/-! DEFINITION. The host register space (10_state.md R40 to R55) and the host's accesses (20_memory.md R62 to R65). -/

namespace Sys2Proof.Machine

/-- A configuration register (R46 to R54). -/
inductive CfgReg where
  | bus
  | pin
  | lowMs
  | highMs
  | repeatCount
  | naddr
  | nreg
  | addr (i : Fin 16)
  | reg (j : Fin 16)
deriving DecidableEq, Repr

/-- A register of the host register space (R40's table). -/
inductive HostReg where
  | cmd
  | status
  | rdres
  | lastWrite
  | lastRead
  | cfg (c : CfgReg)
deriving DecidableEq, Repr

/-- The register at a byte offset (R40); `none` for a reserved, misaligned or out-of-range offset (R63). -/
def hostRegAt (off : Nat) : Option HostReg :=
  if off % 4 ≠ 0 then none
  else match off / 4 with
    | 0 => some .cmd
    | 1 => some .status
    | 2 => some .rdres
    | 3 => some .lastWrite
    | 4 => some .lastRead
    | 5 => some (.cfg .bus)
    | 6 => some (.cfg .pin)
    | 7 => some (.cfg .lowMs)
    | 8 => some (.cfg .highMs)
    | 9 => some (.cfg .repeatCount)
    | 10 => some (.cfg .naddr)
    | 11 => some (.cfg .nreg)
    | n => if h : 16 ≤ n ∧ n < 32 then some (.cfg (.addr ⟨n - 16, by omega⟩))
           else if h : 32 ≤ n ∧ n < 48 then some (.cfg (.reg ⟨n - 32, by omega⟩))
           else none

/-- The byte offset of a register (R40's table). -/
def HostReg.offset : HostReg → Nat
  | .cmd => 0x00
  | .status => 0x04
  | .rdres => 0x08
  | .lastWrite => 0x0C
  | .lastRead => 0x10
  | .cfg .bus => 0x14
  | .cfg .pin => 0x18
  | .cfg .lowMs => 0x1C
  | .cfg .highMs => 0x20
  | .cfg .repeatCount => 0x24
  | .cfg .naddr => 0x28
  | .cfg .nreg => 0x2C
  | .cfg (.addr i) => 0x40 + 4 * i.val
  | .cfg (.reg j) => 0x80 + 4 * j.val

/-- `min(v[4:0], LIST_MAX)`, what a list-length register stores (R5, R51, R52). -/
def clampLength (P : Params) (v : Word) : BitVec 5 :=
  BitVec.ofNat 5 (min (v.truncate 5 : BitVec 5).toNat P.listMax)

/-- What a configuration register reads as: its fields, every other bit 0 (R40, R46 to R55). -/
def Cfg.read (c : Cfg) : CfgReg → Word
  | .bus => c.bus.zeroExtend 32
  | .pin => c.pin.zeroExtend 32
  | .lowMs => c.lowMs.zeroExtend 32
  | .highMs => c.highMs.zeroExtend 32
  | .repeatCount => c.repeatCount.zeroExtend 32
  | .naddr => c.naddr.zeroExtend 32
  | .nreg => c.nreg.zeroExtend 32
  | .addr i => c.addrs[i].zeroExtend 32
  | .reg j => c.regs[j].zeroExtend 32

/-- A performed write of a configuration register: the value cut to the field's width (R46 to R54). -/
def Cfg.write (P : Params) (c : Cfg) (v : Word) : CfgReg → Cfg
  | .bus => { c with bus := v.truncate 8 }
  | .pin => { c with pin := v.truncate 8 }
  | .lowMs => { c with lowMs := v.truncate 10 }
  | .highMs => { c with highMs := v.truncate 10 }
  | .repeatCount => { c with repeatCount := v.truncate 16 }
  | .naddr => { c with naddr := clampLength P v }
  | .nreg => { c with nreg := clampLength P v }
  | .addr i => { c with addrs := c.addrs.set i.val (v.truncate 7) }
  | .reg j => { c with regs := c.regs.set j.val (v.truncate 8) }

/-- `RDRES` as an idle block shows it: `{23'b0, PRESENT, VALUE}` (R43). -/
def Results.rdresWord (r : Results) : Word := 0#23 ++ bit r.present ++ r.value

/-- One more host read, with the value it returned. -/
def State.returnRead (off : Nat) (v : Word) (s : State) : State :=
  { s with world := { s.world with reads := s.world.reads ++ [(off, v)] } }

/-- A read of a result latch: the latch when idle, a draw while busy (R43 to R45, U11). -/
def State.readLatch (off : Nat) (v : Word) (s : State) : State :=
  if s.block.flags.busy then
    State.returnRead off (Config.busyReadValue s.world.readDraws)
      { s with world := { s.world with readDraws := s.world.readDraws + 1 } }
  else s.returnRead off v

/-- `HostRead(off)`: no effect on the block (R64); 0 for `CMD` and for every offset with no register (R40, R41, R63). -/
def hostRead (off : Nat) (s : State) : State :=
  match hostRegAt off with
  | none => s.returnRead off 0
  | some .cmd => s.returnRead off 0
  | some .status => s.returnRead off s.block.flags.statusWord
  | some .rdres => s.readLatch off s.block.res.rdresWord
  | some .lastWrite => s.readLatch off s.block.res.lastWrite
  | some .lastRead => s.readLatch off s.block.res.lastRead
  | some (.cfg c) => s.returnRead off (s.block.cfg.read c)

/-- A write to a configuration register: performed when idle, dropped with `OVERRUN` while busy (R55). -/
def writeCfg (P : Params) (c : CfgReg) (v : Word) (s : State) : State :=
  if s.block.flags.busy then s.overrun
  else { s with block := { s.block with cfg := s.block.cfg.write P v c } }

/-- A write to `CMD` (R41): decode the word and take the command, or take an illegal word. -/
def writeCmd (w : Word) (s : State) : StepResult :=
  match decodeWord w with
  | .ok i => exec i s
  | .error _ => .next s.takeIllegal

/-- `HostWrite(off, v)`: writes to read-only registers and to offsets with no register are ignored (R63, R64). -/
def hostWrite (P : Params) (off : Nat) (v : Word) (s : State) : StepResult :=
  match hostRegAt off with
  | none => .next s
  | some .cmd => writeCmd v s
  | some .status => .next s
  | some .rdres => .next s
  | some .lastWrite => .next s
  | some .lastRead => .next s
  | some (.cfg c) => .next (writeCfg P c v s)

end Sys2Proof.Machine
end

