-- ==== Sys2Proof/Machine/Turn.lean ====
section
/-! DEFINITION. One step of the machine: whose turn it is and what happens in it (20_memory.md R65, R79;
70_reset_and_hazards.md R260, R261). -/

namespace Sys2Proof.Machine

/-- The machine with the turns `turns` to come. -/
def State.withTurns (turns : List HostTurn) (s : State) : State := { s with world := { s.world with host := turns } }

/-- The world after the outstanding request, if there is one, has been carried out by its collaborator; a request whose
collaborator does not answer leaves no event (R10), carried out or not. -/
def carriedOutWorld (P : Params) (s : State) : World :=
  match seqStep P s with
  | .next t => t.world
  | .fault _ => s.world
  | .refused _ => s.world

/-- A block reset (R58, R260, R261): the block has its reset values, no port request is issued, and the response of a
request outstanding at that moment is discarded, whether the request is carried out or not. -/
def blockReset (P : Params) (carriedOut : Bool) (s : State) : State :=
  { block := Block.reset P, world := if carriedOut then carriedOutWorld P s else s.world }

/-- One turn (R65, R79). -/
def takeTurn (P : Params) (turn : HostTurn) (s : State) : StepResult :=
  match turn with
  | .seq => seqStep P s
  | .read off => .next (hostRead off s)
  | .write off v => hostWrite P off v s
  | .reset carriedOut => .next (blockReset P carriedOut s)

/-- One step under the parameters `P`: the next turn listed, or the sequencer's turn when the host is silent. -/
def stepWith (P : Params) (s : State) : StepResult :=
  match s.world.host with
  | [] => takeTurn P .seq s
  | turn :: rest => takeTurn P turn (s.withTurns rest)

/-- The host writes `w` to `CMD` in its next turn: that is how a command comes to run (R41, R78, R101). -/
def State.withCommand (w : Word) (s : State) : State := s.withTurns (.write HostReg.cmd.offset w :: s.world.host)

end Sys2Proof.Machine
end

