-- ==== Sys2Proof/Machine/Step.lean ====
section
/-! DEFINITION. `step`: one step of the machine under this instance's parameters. -/

namespace Sys2Proof.Machine

/-- One step (R26, R65, R79). -/
def step (s : State) : Host.Outcome State Fault Refusal := stepWith Config.params s

/-- `s` with the command word `w` placed where the next step takes its command: the host's next turn is the write of
that word to `CMD` (R41, R78). -/
def State.withFetchWord (s : State) (nbits w : Nat) : State := s.withCommand (tableWord nbits w)

end Sys2Proof.Machine
end

