-- ==== Sys2Proof/Safety.lean ====
section
/-! DEFINITION. The terms in which claims about PTPROBE are stated: runs, legal states, the ghost variable `HELD`
(10_state.md R56), the one port call of a phase (R26), and the traces (00_scope.md R10) the commands leave. -/

namespace Sys2Proof.Machine

/-! ## Runs -/

/-- `n` steps, stopping at the first fault or refusal. -/
def run : Nat → State → StepResult
  | 0, s => .next s
  | n + 1, s =>
    match step s with
    | .next t => run n t
    | .fault r => .fault r
    | .refused r => .refused r

/-- The host takes no turn: every step is the sequencer's. -/
def State.hostSilent (s : State) : Prop := s.world.host = []

/-- The collaborator `c` answers every request: the liveness assumption of 20_memory.md R71 (bus), R72 (GPIO, delay) or R73
(sink), which a claim that an operation ends names. -/
def State.answeredBy (c : Collaborator) (s : State) : Prop := s.world.left c = none

/-- The collaborator `c` never answers again (R265, R277, U15). -/
def State.silent (c : Collaborator) (s : State) : Prop := s.world.left c = some 0

/-- A host access: a turn that is neither the sequencer's nor a block reset (R65). -/
def HostTurn.isAccess : HostTurn → Bool
  | .read _ => true
  | .write _ _ => true
  | .seq => false
  | .reset _ => false

/-- A block reset (R260). -/
def HostTurn.isReset : HostTurn → Bool
  | .reset _ => true
  | _ => false

/-! ## Legal states -/

/-- `PH` is a phase of the operation `OPC`, and `BUSY == 1` iff `OPC != IDLE` (R26, R31). -/
structure PhaseInv (b : Block) : Prop where
  phase_of_operation : b.seq.ph.usedBy b.seq.opc = true
  busy_iff : b.flags.busy = true ↔ b.seq.opc ≠ .idle

/-- At most one of `DONE`, `PINFAULT`, `ILLEGAL` is 1, each implies `BUSY == 0` (R38), and `STAGE` is 1 only with
`PINFAULT` (R35). -/
structure FlagInv (f : Flags) : Prop where
  done_pinfault : ¬(f.done = true ∧ f.pinfault = true)
  done_illegal : ¬(f.done = true ∧ f.illegal = true)
  pinfault_illegal : ¬(f.pinfault = true ∧ f.illegal = true)
  busy_alone : f.busy = true → f.done = false ∧ f.pinfault = false ∧ f.illegal = false
  stage_pinfault : f.stage = true → f.pinfault = true

/-- The block while the request of its phase is outstanding: in a bus phase the descriptor is populated (R23, R137, with
R162, R192 and R195), in any other phase nothing has changed. -/
def Block.requesting (P : Params) (b : Block) : Block :=
  match b.seq.ph with
  | .sProbe => { b with desc := { b.desc with addr := b.seq.a.truncate 7, len := 0, valid := true } }
  | .gWrite => { b with desc := { addr := b.latch.addr, len := 1, valid := true, buf0 := b.latch.reg } }
  | .gRead => { b with desc := { b.desc with len := 1, valid := true, buf0 := P.placeholder } }
  | _ => b

/-- `DESC_VALID == 1` only while a bus request is outstanding, and then the descriptor is that request's (R23, R137);
`DESC_LEN` is 0 or 1 (R22). -/
structure DescInv (P : Params) (b : Block) : Prop where
  valid_outstanding : b.desc.valid = true → b.seq.ph.collaborator = some .bus
  valid_populated : b.desc.valid = true → b.requesting P = b
  len_zero_or_one : b.desc.len = 0 ∨ b.desc.len = 1

/-- The list lengths are 0 to 16 (R51, R52). -/
structure CfgInv (c : Cfg) : Prop where
  naddr_le : c.naddr.toNat ≤ 16
  nreg_le : c.nreg.toNat ≤ 16

/-- A phase that belongs to one register read: its two phases, and the report of its value. -/
def Phase.inRead : Phase → Bool
  | .gWrite => true
  | .gRead => true
  | .pValue => true
  | _ => false

/-- A phase that ends a sweep. -/
def Phase.endsSweep : Phase → Bool
  | .pMark => true
  | .pFlush => true
  | _ => false

/-- The ranges of the counters (R27 to R30), and where in a sweep each phase of PROBE stands (R216, R217). -/
structure CounterInv (b : Block) : Prop where
  a_le : b.seq.a.toNat ≤ 128
  a_probed : b.seq.ph = .sProbe ∨ b.seq.ph = .sHit → b.seq.a.toNat ≤ 127
  a_end : b.seq.ph = .sFlush → b.seq.a.toNat = 128
  k_le : b.seq.opc = .probe → b.seq.k.toNat ≤ b.cfg.repeatCount.toNat
  i_le : b.seq.opc = .probe → b.seq.i.toNat ≤ b.cfg.naddr.toNat
  j_le : b.seq.opc = .probe → b.seq.j.toNat ≤ b.cfg.nreg.toNat
  in_read : b.seq.opc = .probe → b.seq.ph.inRead = true →
    b.seq.k.toNat < b.cfg.repeatCount.toNat ∧ b.seq.i.toNat < b.cfg.naddr.toNat ∧ b.seq.j.toNat < b.cfg.nreg.toNat
  at_sweep_end : b.seq.ph.endsSweep = true →
    b.seq.k.toNat < b.cfg.repeatCount.toNat ∧ b.seq.i = b.cfg.naddr

/-- What the latches hold: the descriptor's address in the read phase (R195), PROBE's operands (R25, R213), and the
status that led to a report (R164, R197). -/
structure LatchInv (P : Params) (b : Block) : Prop where
  read_addr : b.seq.ph = .gRead → b.desc.addr = b.latch.addr
  probe_operands : b.seq.opc = .probe →
    b.latch.bus = b.cfg.bus ∧ b.latch.pin = b.cfg.pin ∧ b.latch.low = b.cfg.lowMs ∧ b.latch.high = b.cfg.highMs
  probe_pair : b.seq.opc = .probe → b.seq.ph.inRead = true →
    b.cfg.addrs[b.seq.i.toNat]? = some b.latch.addr ∧ b.cfg.regs[b.seq.j.toNat]? = some b.latch.reg
  hit_status : b.seq.ph = .sHit → b.res.lastWrite ≠ P.nackCode
  value_present : b.seq.ph = .pValue → b.res.present = true ∧ b.res.lastRead ≠ P.nackCode

/-- A legal state of the block: everything R20 to R58 say of a state between two steps. -/
structure BlockInv (P : Params) (b : Block) : Prop where
  phase : PhaseInv b
  flags : FlagInv b.flags
  desc : DescInv P b
  cfg : CfgInv b.cfg
  counters : CounterInv b
  latches : LatchInv P b

/-! ## What the host register space shows -/

/-- The value a configuration register holds after a performed write of `v`: the bits of its field (R46 to R50, R53,
R54), for a list length no more than 16 (R51, R52). -/
def storedValue (v : Word) : CfgReg → Word
  | .bus => v &&& 0xFF
  | .pin => v &&& 0xFF
  | .lowMs => v &&& 0x3FF
  | .highMs => v &&& 0x3FF
  | .repeatCount => v &&& 0xFFFF
  | .naddr => if 16 < (v &&& 0x1F).toNat then 16 else v &&& 0x1F
  | .nreg => if 16 < (v &&& 0x1F).toNat then 16 else v &&& 0x1F
  | .addr _ => v &&& 0x7F
  | .reg _ => v &&& 0xFF

/-- An offset with no register: misaligned, above 0xFF, or reserved (R40, R63). -/
def unmappedOffset (off : Nat) : Prop :=
  off % 4 ≠ 0 ∨ 0xFF < off ∨ (0x30 ≤ off ∧ off < 0x40) ∨ (0xC0 ≤ off ∧ off ≤ 0xFC)

/-! ## Port calls -/

/-- A request on one of the four master ports, with its fields (R66 to R69). -/
inductive PortCall where
  | busWrite (bus : Byte) (addr : DevAddr) (len : BitVec 16) (data : List Byte) (timeout : Word) (stop : Bool)
  | busRead (bus : Byte) (addr : DevAddr) (len : BitVec 16) (timeout : Word) (stop : Bool)
  | pinDrive (pin : Byte) (level : Bool)
  | delayMs (duration : Millis)
  | report (record : Record)
deriving DecidableEq, Repr

/-- The request an event answers. -/
def PortEvent.call : PortEvent → PortCall
  | .bw bus addr len data timeout stop _ => .busWrite bus addr len data timeout stop
  | .br bus addr len timeout stop _ _ => .busRead bus addr len timeout stop
  | .pl pin _ => .pinDrive pin false
  | .ph1 pin _ => .pinDrive pin true
  | .dl d => .delayMs d
  | .rp r => .report r

/-- The one port call of a phase, or none (R26's table, with the fields of R163, R193, R196, R165, R215). -/
def Block.portCall (P : Params) (b : Block) : Option PortCall :=
  match b.seq.ph with
  | .idle => none
  | .sProbe => some (.busWrite b.latch.bus b.seq.scanAddr 0 [] P.timeoutUnits true)
  | .sHit => some (.report (.scanHit b.seq.scanAddr b.res.lastWrite))
  | .sFlush => some (.report .flush)
  | .dLow => some (.pinDrive b.latch.pin false)
  | .dWaitLow => some (.delayMs b.latch.low)
  | .dHigh => some (.pinDrive b.latch.pin true)
  | .dWaitHigh => some (.delayMs b.latch.high)
  | .gWrite => some (.busWrite b.latch.bus b.latch.addr 1 [b.latch.reg] P.timeoutUnits false)
  | .gRead => some (.busRead b.latch.bus b.desc.addr 1 P.timeoutUnits true)
  | .pNext => none
  | .pValue => some (.report (.regValue b.latch.addr b.latch.reg b.res.value))
  | .pMark => some (.report .sweepDone)
  | .pFlush => some (.report .flush)

/-! ## The bus between two requests -/

/-- How one event changes `HELD` of a bus: a request with `stop = 0` on it sets it, one with `stop = 1` clears it (R56). -/
def heldAfter (bus : Byte) (h : Bool) : PortEvent → Bool
  | .bw b _ _ _ _ stop _ => if b = bus then !stop else h
  | .br b _ _ _ stop _ _ => if b = bus then !stop else h
  | _ => h

/-- The ghost variable `HELD` of a bus after a trace (R56). -/
def heldBy (trace : List PortEvent) (bus : Byte) : Bool := trace.foldl (heldAfter bus) false

/-- A request on a bus that releases it: one with `stop = 1` (R56, R66). -/
def PortEvent.releases (bus : Byte) : PortEvent → Bool
  | .bw b _ _ _ _ stop _ => b == bus && stop
  | .br b _ _ _ stop _ _ => b == bus && stop
  | _ => false

/-- A bus is held exactly between the two phases of a register read on it (R80). -/
def HeldInv (s : State) : Prop :=
  ∀ bus, heldBy s.world.trace bus = true ↔ s.block.seq.ph = .gRead ∧ s.block.latch.bus = bus

/-- Every bus write with `stop = 0` is followed at once by a read of one byte with `stop = 1` from the same device of
the same bus; only the latest write may still be waiting for its read (R77). -/
def ReadFollowsHold (s : State) : Prop :=
  ∀ before after bus addr len data timeout st,
    s.world.trace = before ++ .bw bus addr len data timeout false st :: after →
      (after = [] ∧ s.block.seq.ph = .gRead ∧ s.block.latch.bus = bus ∧ s.block.desc.addr = addr) ∨
      ∃ timeout' rs rx rest, after = .br bus addr 1 timeout' true rs rx :: rest

/-- The timeout of a bus request is `TIMEOUT_UNITS` (R135); other events have none. -/
def PortEvent.timeoutIs (timeoutUnits : Word) : PortEvent → Prop
  | .bw _ _ _ _ timeout _ _ => timeout = timeoutUnits
  | .br _ _ _ timeout _ _ _ => timeout = timeoutUnits
  | _ => True

/-! ## The traces the commands leave -/

/-- The 128 addresses in the order a scan visits them (R161). -/
def scanOrder : List DevAddr := (List.range 128).map (BitVec.ofNat 7)

/-- One probe, and its report if it is a hit (R163 to R165). -/
def probeEvents (P : Params) (bus : Byte) (addr : DevAddr) (st : StatusCode) : List PortEvent :=
  .bw bus addr 0 [] P.timeoutUnits true st :: if st = P.nackCode then [] else [.rp (.scanHit addr st)]

/-- The trace of a whole scan whose probes answered `statuses`, address by address (R160, R167). -/
def scanTrace (P : Params) (bus : Byte) (statuses : List StatusCode) : List PortEvent :=
  ((scanOrder.zip statuses).flatMap fun x => probeEvents P bus x.1 x.2) ++ [.rp .flush]

/-- The events of a reset sequence whose drives answer `ok` (R175, R176). -/
def resetTrace (pin : Byte) (low high : Millis) : List PortEvent :=
  [.pl pin .ok, .dl low, .ph1 pin .ok, .dl high]

/-- The two events of a register read (R191, R193, R196). -/
def readTrace (P : Params) (bus : Byte) (addr : DevAddr) (reg : Byte) (ws : StatusCode) (r : ReadAnswer) : List PortEvent :=
  [.bw bus addr 1 [reg] P.timeoutUnits false ws, .br bus addr 1 P.timeoutUnits true r.status r.rx]

/-- The result of a register read (R197, R198): R199's table. -/
def readResult (P : Params) (r : ReadAnswer) : Option Byte :=
  if r.status = P.nackCode then none else some (r.rx.getD P.placeholder)

/-- One register read of PROBE and the report of its value, if it has one (R214, R215). -/
def pairTrace (P : Params) (bus : Byte) (pair : DevAddr × Byte) (x : StatusCode × ReadAnswer) : List PortEvent :=
  readTrace P bus pair.1 pair.2 x.1 x.2 ++
    match readResult P x.2 with
    | none => []
    | some v => [.rp (.regValue pair.1 pair.2 v)]

/-- The configured matrix in the order a sweep reads it: address-major, then register-minor (R212). -/
def Cfg.matrix (c : Cfg) : List (DevAddr × Byte) :=
  (c.addrs.toList.take c.naddr.toNat).flatMap fun addr => (c.regs.toList.take c.nreg.toNat).map fun reg => (addr, reg)

/-- The register reads of a PROBE whose sweeps answered `sweeps`, in the order they are made, each with its answers. -/
def Cfg.readsOf (c : Cfg) (sweeps : List (List (StatusCode × ReadAnswer))) :
    List ((DevAddr × Byte) × (StatusCode × ReadAnswer)) :=
  sweeps.flatMap fun answers => c.matrix.zip answers

/-- One sweep (R212, R218). -/
def sweepTrace (P : Params) (c : Cfg) (answers : List (StatusCode × ReadAnswer)) : List PortEvent :=
  ((c.matrix.zip answers).flatMap fun x => pairTrace P c.bus x.1 x.2) ++ [.rp .sweepDone, .rp .flush]

/-- The trace of a PROBE that is not abandoned (R210, R211). -/
def probeTrace (P : Params) (c : Cfg) (sweeps : List (List (StatusCode × ReadAnswer))) : List PortEvent :=
  resetTrace c.pin c.lowMs c.highMs ++ sweeps.flatMap fun answers => sweepTrace P c answers

/-! ## What the host cannot disturb -/

/-- `t` differs from `s` only in what host accesses to a busy block may change: `OVERRUN`, what the host has read, and
the turns to come (R64, R235). -/
def AgreeButHost (s t : State) : Prop :=
  t.block = { s.block with flags := { s.block.flags with overrun := t.block.flags.overrun } } ∧
  t.world = { s.world with host := t.world.host, reads := t.world.reads, readDraws := t.world.readDraws }

end Sys2Proof.Machine
end

