-- ==== Sys2Proof/Certificates/Slice0/Obligations.lean ====
section
/-! DEFINITION. The statements for the provers. Each says which rules of spec/ it formalises, or what it rests on. -/

open Sys2Proof Sys2Proof.Machine

/-! ## Decoding and encoding -/

/-- Decoding the word of a command gives the command back, with every operand (30_encoding.md R102 to R107). -/
def Obligations.DecodeInvertsEncode : Prop :=
  ∀ i : Instr, i.wellFormed = true → decodeWord (encode i) = .ok i

/-- A legal word is the word of the command it decodes to: no bit of it is dropped (R102 to R107). -/
def Obligations.EncodeInvertsDecode : Prop :=
  ∀ (w : Word) (i : Instr), decodeWord w = .ok i → encode i = w

/-- R106 and R107: a word is the command of a row iff `(w AND mask) == match`, its operands are its fields as they
stand, and at most one row matches. -/
def Obligations.RowsMatchDecoder : Prop :=
  ∀ w : Word,
    (w &&& 0xFFFFFF00 = 0x10000000 ↔ decodeWord w = .ok (.scan (w.extractLsb 7 0))) ∧
    (w &&& 0xF0000000 = 0x20000000 ↔
      decodeWord w = .ok (.devrst (w.extractLsb 27 20) (w.extractLsb 19 10) (w.extractLsb 9 0))) ∧
    (w &&& 0xFF008000 = 0x30000000 ↔
      decodeWord w = .ok (.rdreg (w.extractLsb 23 16) (w.extractLsb 14 8) (w.extractLsb 7 0))) ∧
    (w &&& 0xFFFFFFFF = 0x40000000 ↔ decodeWord w = .ok .probe) ∧
    (encodingRows.filter fun r => r.matchesWord w).length ≤ 1

/-- R112: which words are illegal, and that taking one sets `ILLEGAL`, clears the other outcome flags and does nothing
else. -/
def Obligations.IllegalWordsRefused : Prop :=
  ∀ w : Word,
    ((∃ e, decodeWord w = .error e) ↔
      (w.extractLsb 31 28 = 0x0#4 ∨ 0x5 ≤ (w.extractLsb 31 28).toNat) ∨
      (w.extractLsb 31 28 = 0x1#4 ∧ w.extractLsb 27 8 ≠ 0#20) ∨
      (w.extractLsb 31 28 = 0x3#4 ∧ (w.extractLsb 27 24 ≠ 0#4 ∨ w.extractLsb 15 15 ≠ 0#1)) ∨
      (w.extractLsb 31 28 = 0x4#4 ∧ w.extractLsb 27 0 ≠ 0#28)) ∧
    ∀ (s : State) (rest : List HostTurn), (∃ e, decodeWord w = .error e) →
      s.world.host = .write 0x00 w :: rest → s.block.flags.busy = false →
        step s = .next
          { block := { s.block with flags :=
              { busy := false, done := false, pinfault := false, stage := false, illegal := true, overrun := false } }
            world := { s.world with host := rest } }

/-- The words of 95_test_vectors.md section 2.1 that the source's and the spec's examples use. -/
def Obligations.KnownWordsDecode : Prop :=
  decodeWord 0x10000001 = .ok (.scan 1) ∧
  decodeWord 0x20A05190 = .ok (.devrst 10 20 400) ∧
  decodeWord 0x200FFC00 = .ok (.devrst 0 1023 0) ∧
  decodeWord 0x300115A3 = .ok (.rdreg 1 0x15 0xA3) ∧
  decodeWord 0x30FF7FFF = .ok (.rdreg 255 127 255) ∧
  decodeWord 0x40000000 = .ok .probe ∧
  decodeWord 0x10000100 = .error .scanReserved ∧
  decodeWord 0x30019500 = .error .rdregReserved ∧
  decodeWord 0x40000001 = .error .probeReserved ∧
  decodeWord 0x50000000 = .error (.unusedOpcode 0x5)

/-- The assembler's words (R115): each line's word is the OR of its opcode and shifted operands, and a line assembles
iff its operands are in their fields' ranges. -/
def Obligations.AssemblerWords : Prop :=
  (∀ bus i, (AsmLine.scan bus).assemble = some i → encode i = (0x10000000 : Word) ||| BitVec.ofNat 32 bus) ∧
  (∀ pin low high i, (AsmLine.devrst pin low high).assemble = some i →
    encode i = (0x20000000 : Word) ||| (BitVec.ofNat 32 pin <<< 20) ||| (BitVec.ofNat 32 low <<< 10) ||| BitVec.ofNat 32 high) ∧
  (∀ bus addr reg i, (AsmLine.rdreg bus addr reg).assemble = some i →
    encode i = (0x30000000 : Word) ||| (BitVec.ofNat 32 bus <<< 16) ||| (BitVec.ofNat 32 addr <<< 8) ||| BitVec.ofNat 32 reg) ∧
  (∀ i, AsmLine.probe.assemble = some i → encode i = 0x40000000) ∧
  (∀ bus, (AsmLine.scan bus).assemble = none ↔ 255 < bus) ∧
  (∀ pin low high, (AsmLine.devrst pin low high).assemble = none ↔ 255 < pin ∨ 1023 < low ∨ 1023 < high) ∧
  (∀ bus addr reg, (AsmLine.rdreg bus addr reg).assemble = none ↔ 255 < bus ∨ 127 < addr ∨ 255 < reg) ∧
  AsmLine.probe.assemble ≠ none

/-! ## Taking a command -/

/-- A step whose turn is the host's write of a legal word to `CMD` is `exec` of the decoded command, at the state in
which that turn is over (R41, R78, R101); `withFetchWord` places such a turn. -/
def Obligations.StepRunsDecodedCommand : Prop :=
  (∀ (s : State) (w : Word) (i : Instr) (rest : List HostTurn),
    s.world.host = .write 0x00 w :: rest → decodeWord w = .ok i → i.wellFormed = true →
      step s = exec i { s with world := { s.world with host := rest } }) ∧
  ∀ (s : State) (n : Nat) (i : Instr), decodeTableWord 32 n = some i → step (s.withFetchWord 32 n) = exec i s

/-- R110: what taking each command does to an idle block, every flag, latch, counter and phase, and nothing else; no
port request is issued. The word written to `CMD` chooses the command by R107's row and its operands by their fields. -/
def Obligations.CommandAcceptance : Prop :=
  (∀ s : State, s.block.flags.busy = false →
    (∀ bus, exec (.scan bus) s = .next { s with block := { s.block with
      flags := { busy := true, done := false, pinfault := false, stage := false, illegal := false, overrun := false }
      latch := { s.block.latch with bus := bus }
      seq := { s.block.seq with opc := .scan, ph := .sProbe, a := 0 } } }) ∧
    (∀ pin low high, exec (.devrst pin low high) s = .next { s with block := { s.block with
      flags := { busy := true, done := false, pinfault := false, stage := false, illegal := false, overrun := false }
      latch := { s.block.latch with pin := pin, low := low, high := high }
      seq := { s.block.seq with opc := .devrst, ph := .dLow } } }) ∧
    (∀ bus addr reg, exec (.rdreg bus addr reg) s = .next { s with block := { s.block with
      flags := { busy := true, done := false, pinfault := false, stage := false, illegal := false, overrun := false }
      latch := { s.block.latch with bus := bus, addr := addr, reg := reg }
      seq := { s.block.seq with opc := .rdreg, ph := .gWrite } } }) ∧
    exec .probe s = .next { s with block := { s.block with
      flags := { busy := true, done := false, pinfault := false, stage := false, illegal := false, overrun := false }
      latch := { s.block.latch with bus := s.block.cfg.bus, pin := s.block.cfg.pin,
                                    low := s.block.cfg.lowMs, high := s.block.cfg.highMs }
      seq := { s.block.seq with opc := .probe, ph := .dLow, k := 0, i := 0, j := 0 } } }) ∧
  ∀ (s : State) (w : Word) (rest : List HostTurn), s.world.host = .write 0x00 w :: rest →
    (w &&& 0xFFFFFF00 = 0x10000000 →
      step s = exec (.scan (w.extractLsb 7 0)) { s with world := { s.world with host := rest } }) ∧
    (w &&& 0xF0000000 = 0x20000000 →
      step s = exec (.devrst (w.extractLsb 27 20) (w.extractLsb 19 10) (w.extractLsb 9 0))
        { s with world := { s.world with host := rest } }) ∧
    (w &&& 0xFF008000 = 0x30000000 →
      step s = exec (.rdreg (w.extractLsb 23 16) (w.extractLsb 14 8) (w.extractLsb 7 0))
        { s with world := { s.world with host := rest } }) ∧
    (w = 0x40000000 → step s = exec .probe { s with world := { s.world with host := rest } })

/-- R235: a write to `CMD` (any word) or to a configuration register while busy sets `OVERRUN` and is otherwise
dropped; every command's `exec` is turned away the same way. -/
def Obligations.BusyWritesOverrun : Prop :=
  ∀ s : State, s.block.flags.busy = true →
    (∀ i, exec i s = .next { s with block := { s.block with flags := { s.block.flags with overrun := true } } }) ∧
    ∀ (off : Nat) (v : Word) (rest : List HostTurn), s.world.host = .write off v :: rest →
      (off = 0x00 ∨ ∃ c : CfgReg, off = (HostReg.cfg c).offset) →
        step s = .next
          { block := { s.block with flags := { s.block.flags with overrun := true } }
            world := { s.world with host := rest } }

/-! ## The host register space -/

/-- R55: configuration writes are dropped while busy and performed when idle, changing no flag and no other register;
the block itself never writes a configuration register; reads return the stored value at any time. -/
def Obligations.ConfigurationWrites : Prop :=
  (∀ (c : CfgReg) (v : Word) (s : State) (rest : List HostTurn),
    s.world.host = .write (HostReg.cfg c).offset v :: rest →
      (s.block.flags.busy = true → step s = .next
        { block := { s.block with flags := { s.block.flags with overrun := true } }
          world := { s.world with host := rest } }) ∧
      (s.block.flags.busy = false → ∃ cfg, step s = .next
          { block := { s.block with cfg := cfg }, world := { s.world with host := rest } } ∧
        cfg.read c = storedValue v c ∧ ∀ d, d ≠ c → cfg.read d = s.block.cfg.read d)) ∧
  (∀ (i : Instr) (s t : State), exec i s = .next t → t.block.cfg = s.block.cfg) ∧
  (∀ s t : State, seqStep Config.params s = .next t → t.block.cfg = s.block.cfg) ∧
  ∀ (c : CfgReg) (s : State) (rest : List HostTurn), s.world.host = .read (HostReg.cfg c).offset :: rest →
    step s = .next { s with world := { s.world with host := rest, reads :=
      s.world.reads ++ [((HostReg.cfg c).offset, s.block.cfg.read c)] } }

/-- R42: a read of `STATUS` returns the six flags in its bits 0 to 5 and zero above, at any time and with no effect on
the block; writes to it are ignored. -/
def Obligations.StatusShowsFlags : Prop :=
  ∀ (s : State) (rest : List HostTurn),
    (s.world.host = .read 0x04 :: rest → ∃ v : Word,
      step s = .next { s with world := { s.world with host := rest, reads := s.world.reads ++ [(0x04, v)] } } ∧
      v.getLsbD 0 = s.block.flags.busy ∧ v.getLsbD 1 = s.block.flags.done ∧ v.getLsbD 2 = s.block.flags.pinfault ∧
      v.getLsbD 3 = s.block.flags.stage ∧ v.getLsbD 4 = s.block.flags.illegal ∧ v.getLsbD 5 = s.block.flags.overrun ∧
      ∀ n, 6 ≤ n → v.getLsbD n = false) ∧
    ∀ v, s.world.host = .write 0x04 v :: rest → step s = .next { s with world := { s.world with host := rest } }

/-- The result latches as the host reads them (R43 to R45): the latch itself when idle; while busy a fresh draw, of
which nothing is said (the free value of log entry 5), and the block is unchanged. -/
def Obligations.ResultLatchReads : Prop :=
  ∀ (s : State) (rest : List HostTurn),
    (s.block.flags.busy = false →
      (s.world.host = .read 0x08 :: rest → step s = .next { s with world := { s.world with host := rest, reads :=
        s.world.reads ++ [(0x08, (if s.block.res.present then 0x100#32 else 0#32) + s.block.res.value.zeroExtend 32)] } }) ∧
      (s.world.host = .read 0x0C :: rest → step s = .next { s with world := { s.world with host := rest, reads :=
        s.world.reads ++ [(0x0C, s.block.res.lastWrite)] } }) ∧
      (s.world.host = .read 0x10 :: rest → step s = .next { s with world := { s.world with host := rest, reads :=
        s.world.reads ++ [(0x10, s.block.res.lastRead)] } })) ∧
    (s.block.flags.busy = true → ∀ off, off = 0x08 ∨ off = 0x0C ∨ off = 0x10 → s.world.host = .read off :: rest →
      ∃ v, step s = .next { s with world := { s.world with
        host := rest, reads := s.world.reads ++ [(off, v)], readDraws := s.world.readDraws + 1 } })

/-- An offset with no register: misaligned, out of range (R63) or reserved (R40). A read returns 0 and changes nothing
else, a write is ignored and sets no flag, busy or not. -/
def Obligations.UnmappedOffsetsInert : Prop :=
  ∀ (s : State) (off : Nat) (rest : List HostTurn), unmappedOffset off →
    (s.world.host = .read off :: rest →
      step s = .next { s with world := { s.world with host := rest, reads := s.world.reads ++ [(off, 0)] } }) ∧
    ∀ v, s.world.host = .write off v :: rest → step s = .next { s with world := { s.world with host := rest } }

/-- R40: every register stands at its offset and at no other, every other offset has none, and `CMD` reads as 0 with no
effect (R41). -/
def Obligations.RegisterMap : Prop :=
  (∀ (r : HostReg) (off : Nat), hostRegAt off = some r ↔ off = r.offset) ∧
  (∀ off, hostRegAt off = none ↔ unmappedOffset off) ∧
  ∀ (s : State) (rest : List HostTurn), s.world.host = .read 0x00 :: rest →
    step s = .next { s with world := { s.world with host := rest, reads := s.world.reads ++ [(0x00, 0)] } }

/-- R64: a host read has no effect on the block or on any port; a host write changes anything only at `CMD` and at the
configuration registers, and at the latter only the register when idle and only `OVERRUN` when busy. -/
def Obligations.HostAccessSideEffects : Prop :=
  ∀ (s : State) (rest : List HostTurn) (off : Nat),
    (s.world.host = .read off :: rest → ∃ v n, step s = .next { s with world := { s.world with
      host := rest, reads := s.world.reads ++ [(off, v)], readDraws := n } }) ∧
    ∀ v, s.world.host = .write off v :: rest →
      (hostRegAt off ≠ some .cmd → (∀ c, hostRegAt off ≠ some (.cfg c)) →
        step s = .next { s with world := { s.world with host := rest } }) ∧
      (∀ c, hostRegAt off = some (.cfg c) → ∃ cfg o, step s = .next
        { block := { s.block with cfg := cfg, flags := { s.block.flags with overrun := o } }
          world := { s.world with host := rest } } ∧
        (s.block.flags.busy = true → cfg = s.block.cfg ∧ o = true) ∧
        (s.block.flags.busy = false → o = s.block.flags.overrun))

/-! ## Reset -/

/-- R58: every element after a block reset, whether or not the outstanding request is carried out. The clause that the
reset issues no port request and leaves the trace and the environment unchanged is said of a turn that carries no
outstanding request out: that the turn says so is the model's form (log entry 6), and the other form is
`BlockResetAbandons`'s. -/
def Obligations.ResetValues : Prop :=
  State.reset.block =
    { desc := { addr := 0, len := 0, valid := false, buf0 := 0 }
      latch := { bus := 0, pin := 0, low := 0, high := 0, addr := 0, reg := 0 }
      seq := { opc := .idle, ph := .idle, a := 0, k := 0, i := 0, j := 0 }
      flags := { busy := false, done := false, pinfault := false, stage := false, illegal := false, overrun := false }
      res := { present := false, value := 0, lastWrite := 0, lastRead := 0 }
      cfg := { bus := 0, pin := 0, lowMs := 20, highMs := 400, repeatCount := 20, naddr := 0, nreg := 0,
               addrs := Vector.replicate 16 0, regs := Vector.replicate 16 0 } } ∧
  (∀ (s : State) (carriedOut : Bool) (rest : List HostTurn), s.world.host = .reset carriedOut :: rest →
    ∃ t, step s = .next t ∧ t.block = State.reset.block) ∧
  ∀ (s : State) (rest : List HostTurn), s.world.host = .reset false :: rest →
    step s = .next { block := State.reset.block, world := { s.world with host := rest } }

/-- A block reset abandons whatever was in progress (R260, R261): the block has its reset values, and the only port
event it may leave is the request that was outstanding, carried out with its response discarded. That the turn says
whether it was carried out is the model's form (log entry 6). -/
def Obligations.BlockResetAbandons : Prop :=
  ∀ (s : State) (carriedOut : Bool) (rest : List HostTurn), s.world.host = .reset carriedOut :: rest →
    ∃ t, step s = .next t ∧ t.block = State.reset.block ∧ t.world.host = rest ∧
      (t.world.trace = s.world.trace ∨
        ∃ e, carriedOut = true ∧ t.world.trace = s.world.trace ++ [e] ∧
          s.block.portCall Config.params = some e.call)

/-- What a block reset between the two phases of a register read leaves (R262). That the turn says whether the releasing
read was carried out, and that an answered one's event is then in the trace, is the model's form (log entry 6): if it was
carried out by a bus primitive that answers, the bus is released, else it stays held. In either case the next answered
request with `stop = 1` on that bus, any SCAN probe or the read phase of any register read, ends the hold. -/
def Obligations.BlockResetMayLeaveBusHeld : Prop :=
  (∀ (s : State) (carriedOut : Bool) (rest : List HostTurn), PhaseInv s.block → HeldInv s → s.block.seq.ph = .gRead →
    s.world.host = .reset carriedOut :: rest →
    ∃ t, step s = .next t ∧ t.block = State.reset.block ∧
      (heldBy t.world.trace s.block.latch.bus = true ↔ carriedOut = false ∨ s.silent .bus)) ∧
  (∀ u : State, PhaseInv u.block → ¬u.silent .bus →
    (u.block.seq.ph = .sProbe ∧ u.block.seq.a.toNat ≤ 127) ∨ u.block.seq.ph = .gRead →
    ∃ v, seqStep Config.params u = .next v ∧ heldBy v.world.trace u.block.latch.bus = false) ∧
  ∀ (u v : State) (bus : Byte) (e : PortEvent), step u = .next v → v.world.trace = u.world.trace ++ [e] →
    e.releases bus = true → heldBy v.world.trace bus = false

/-- An idle block waits for a command: with a silent host nothing changes and no request is issued, for ever (R246,
R260). -/
def Obligations.IdleBlockWaits : Prop :=
  ∀ (s : State) (n : Nat), s.block.seq.opc = .idle → s.block.seq.ph = .idle → s.hostSilent → run n s = .next s

/-! ## The transition tables -/

/-- R166: the transitions of SCAN on the answer to each phase's request, under every value of the parameters. What a phase
does whose request is not answered is `SilentCollaboratorStalls`'s, here and in the tables below. -/
def Obligations.ScanTransitions : Prop :=
  Config.params.timeoutUnits = 1000 ∧ ∀ (P : Params) (s : State), s.block.seq.opc = .scan →
    (s.block.seq.ph = .sProbe → s.block.seq.a.toNat ≤ 127 →
      ∀ st w, s.world.nextWriteAnswer = some (st, w) →
        seqStep P s = .next
          { block := { s.block with
              desc := { s.block.desc with addr := s.block.seq.a.truncate 7, len := 0, valid := false }
              res := { s.block.res with lastWrite := st }
              seq := if st ≠ P.nackCode then { s.block.seq with ph := .sHit }
                     else if s.block.seq.a ≠ 127 then { s.block.seq with a := s.block.seq.a + 1, ph := .sProbe }
                     else { s.block.seq with a := 128, ph := .sFlush } }
            world := { w with trace := s.world.trace ++
              [.bw s.block.latch.bus (s.block.seq.a.truncate 7) 0 [] P.timeoutUnits true st] } }) ∧
    (s.block.seq.ph = .sHit → s.block.seq.a.toNat ≤ 127 →
      ∀ w, s.world.sinkTakes = some w →
        seqStep P s = .next
          { block := { s.block with
              seq := if s.block.seq.a ≠ 127 then { s.block.seq with a := s.block.seq.a + 1, ph := .sProbe }
                     else { s.block.seq with a := 128, ph := .sFlush } }
            world := { w with trace := s.world.trace ++
              [.rp (.scanHit (s.block.seq.a.truncate 7) s.block.res.lastWrite)] } }) ∧
    (s.block.seq.ph = .sFlush →
      ∀ w, s.world.sinkTakes = some w →
        seqStep P s = .next
          { block := { s.block with
              flags := { s.block.flags with busy := false, done := true }
              seq := { s.block.seq with opc := .idle, ph := .idle } }
            world := { w with trace := s.world.trace ++ [.rp .flush] } })

/-- R181: the transitions of the reset sequence, for DEVRST and for PROBE. -/
def Obligations.ResetTransitions : Prop :=
  ∀ (P : Params) (s : State), s.block.seq.opc = .devrst ∨ s.block.seq.opc = .probe →
    (∀ r w, s.world.nextPinAnswer = some (r, w) →
      (s.block.seq.ph = .dLow → seqStep P s = .next
        { block := match r with
            | .ok => { s.block with seq := { s.block.seq with ph := .dWaitLow } }
            | .fault => { s.block with
                flags := { s.block.flags with busy := false, pinfault := true, stage := false }
                seq := { s.block.seq with opc := .idle, ph := .idle } }
          world := { w with trace := s.world.trace ++ [.pl s.block.latch.pin r] } }) ∧
      (s.block.seq.ph = .dHigh → seqStep P s = .next
        { block := match r with
            | .ok => { s.block with seq := { s.block.seq with ph := .dWaitHigh } }
            | .fault => { s.block with
                flags := { s.block.flags with busy := false, pinfault := true, stage := true }
                seq := { s.block.seq with opc := .idle, ph := .idle } }
          world := { w with trace := s.world.trace ++ [.ph1 s.block.latch.pin r] } })) ∧
    ∀ w, s.world.serves .delay = some w →
      (s.block.seq.ph = .dWaitLow → seqStep P s = .next
        { block := { s.block with seq := { s.block.seq with ph := .dHigh } }
          world := { w with trace := s.world.trace ++ [.dl s.block.latch.low] } }) ∧
      (s.block.seq.ph = .dWaitHigh → seqStep P s = .next
        { block := if s.block.seq.opc = .devrst then
            { s.block with
              flags := { s.block.flags with busy := false, done := true }
              seq := { s.block.seq with opc := .idle, ph := .idle } }
            else { s.block with seq := { s.block.seq with ph := .pNext } }
          world := { w with trace := s.world.trace ++ [.dl s.block.latch.high] } })

/-- R200: the transitions of a register read, for RDREG and for PROBE, under every value of the parameters. In the read
phase the descriptor still holds `O_ADDR` (R195), as `LatchInv.read_addr` says of every legal state. -/
def Obligations.ReadTransitions : Prop :=
  Config.params.timeoutUnits = 1000 ∧ Config.params.placeholder = 0 ∧ ∀ (P : Params) (s : State), s.block.seq.opc = .rdreg ∨ s.block.seq.opc = .probe →
    (s.block.seq.ph = .gWrite → ∀ ws w, s.world.nextWriteAnswer = some (ws, w) →
      seqStep P s = .next
        { block := { s.block with
            desc := { addr := s.block.latch.addr, len := 1, valid := false, buf0 := s.block.latch.reg }
            res := { s.block.res with lastWrite := ws }
            seq := { s.block.seq with ph := .gRead } }
          world := { w with trace := s.world.trace ++
            [.bw s.block.latch.bus s.block.latch.addr 1 [s.block.latch.reg] P.timeoutUnits false ws] } }) ∧
    (s.block.seq.ph = .gRead → s.block.desc.addr = s.block.latch.addr →
      ∀ r w, s.world.nextReadAnswer = some (r, w) →
        seqStep P s = .next
          { block := { s.block with
              desc := { addr := s.block.latch.addr, len := 1, valid := false, buf0 := r.rx.getD P.placeholder }
              res := { s.block.res with
                lastRead := r.status
                present := decide (r.status ≠ P.nackCode)
                value := if r.status = P.nackCode then 0 else r.rx.getD P.placeholder }
              flags := if s.block.seq.opc = .rdreg then { s.block.flags with busy := false, done := true }
                       else s.block.flags
              seq := if s.block.seq.opc = .rdreg then { s.block.seq with opc := .idle, ph := .idle }
                     else if r.status = P.nackCode then { s.block.seq with j := s.block.seq.j + 1, ph := .pNext }
                     else { s.block.seq with ph := .pValue } }
            world := { w with trace := s.world.trace ++
              [.br s.block.latch.bus s.block.latch.addr 1 P.timeoutUnits true r.status r.rx] } })

/-- R217: the transitions of PROBE outside the reset sequence and the register read; the conditions of `PH_P_NEXT` in
their order. The two rows R217 repeats from R181 and R200 are in those tables' statements and again here. -/
def Obligations.ProbeTransitions : Prop :=
  ∀ (P : Params) (s : State), s.block.seq.opc = .probe →
    (s.block.seq.ph = .dWaitHigh → ∀ w, s.world.serves .delay = some w → seqStep P s = .next
      { block := { s.block with seq := { s.block.seq with ph := .pNext } }
        world := { w with trace := s.world.trace ++ [.dl s.block.latch.high] } }) ∧
    (s.block.seq.ph = .pNext →
      (s.block.seq.k = s.block.cfg.repeatCount → seqStep P s = .next
        { s with block := { s.block with
            flags := { s.block.flags with busy := false, done := true }
            seq := { s.block.seq with opc := .idle, ph := .idle } } }) ∧
      (s.block.seq.k ≠ s.block.cfg.repeatCount → s.block.seq.i = s.block.cfg.naddr → seqStep P s = .next
        { s with block := { s.block with seq := { s.block.seq with ph := .pMark } } }) ∧
      (s.block.seq.k ≠ s.block.cfg.repeatCount → s.block.seq.i ≠ s.block.cfg.naddr →
        s.block.seq.j = s.block.cfg.nreg → seqStep P s = .next
          { s with block := { s.block with seq := { s.block.seq with i := s.block.seq.i + 1, j := 0 } } }) ∧
      (s.block.seq.k ≠ s.block.cfg.repeatCount → s.block.seq.i ≠ s.block.cfg.naddr →
        s.block.seq.j ≠ s.block.cfg.nreg →
        ∀ addr reg, s.block.cfg.addrs[s.block.seq.i.toNat]? = some addr →
          s.block.cfg.regs[s.block.seq.j.toNat]? = some reg → seqStep P s = .next
            { s with block := { s.block with
                latch := { s.block.latch with addr := addr, reg := reg }
                seq := { s.block.seq with ph := .gWrite } } })) ∧
    (s.block.seq.ph = .gRead → ∀ r w, s.world.nextReadAnswer = some (r, w) →
      ∃ t, seqStep P s = .next t ∧ t.block.seq =
        if r.status = P.nackCode then { s.block.seq with j := s.block.seq.j + 1, ph := .pNext }
        else { s.block.seq with ph := .pValue }) ∧
    (∀ w, s.world.sinkTakes = some w →
      (s.block.seq.ph = .pValue → seqStep P s = .next
        { block := { s.block with seq := { s.block.seq with j := s.block.seq.j + 1, ph := .pNext } }
          world := { w with trace := s.world.trace ++
            [.rp (.regValue s.block.latch.addr s.block.latch.reg s.block.res.value)] } }) ∧
      (s.block.seq.ph = .pMark → seqStep P s = .next
        { block := { s.block with seq := { s.block.seq with ph := .pFlush } }
          world := { w with trace := s.world.trace ++ [.rp .sweepDone] } }) ∧
      (s.block.seq.ph = .pFlush → seqStep P s = .next
        { block := { s.block with seq := { s.block.seq with k := s.block.seq.k + 1, i := 0, j := 0, ph := .pNext } }
          world := { w with trace := s.world.trace ++ [.rp .flush] } }))

/-- A sequencer step makes exactly the one port call of its phase, or none where the phase has none (R26, R74, R75), and
has its event; the one exception is a request whose collaborator does not answer, which waits (R265, R277). -/
def Obligations.OneCallPerStep : Prop :=
  ∀ (P : Params) (s t : State), seqStep P s = .next t →
    (s.block.portCall P = none → t.world = s.world) ∧
    ∀ c, s.block.portCall P = some c →
      (∃ k, s.block.seq.ph.collaborator = some k ∧ s.silent k ∧ t = { s with block := s.block.requesting P }) ∨
      ∃ e : PortEvent, e.call = c ∧ t.world.trace = s.world.trace ++ [e]

/-! ## Whole operations -/

/-- SCAN from an idle block with a silent host, a bus that answers every request and a sink that takes every record
(the liveness assumptions R71 and R73), as R161 and R167 say, with R160 and R170: `exec` takes it, within 257 steps it
has probed the addresses 0 to 127 once each in order, reported exactly the addresses that did not answer `NACK_CODE`,
each directly after its probe, sent one `FLUSH`, and completed; what it leaves of every register. The statuses are any
128 values, the first of them those the environment has listed. -/
def Obligations.ScanRunsToCompletion : Prop :=
  ∀ (bus : Byte) (s : State), s.block.flags.busy = false → s.hostSilent → s.answeredBy .bus →
    s.answeredBy .sink →
    ∃ s₁ statuses n t last, exec (.scan bus) s = .next s₁ ∧ n ≤ 257 ∧ run n s₁ = .next t ∧
      statuses.length = 128 ∧ statuses.getLast? = some last ∧
      statuses.take s.world.writeAnswers.length = s.world.writeAnswers.take 128 ∧
      t.block = { s.block with
        desc := { s.block.desc with addr := 127, len := 0, valid := false }
        latch := { s.block.latch with bus := bus }
        seq := { s.block.seq with opc := .idle, ph := .idle, a := 128 }
        flags := { busy := false, done := true, pinfault := false, stage := false, illegal := false, overrun := false }
        res := { s.block.res with lastWrite := last } } ∧
      t.world = { s.world with
        writeAnswers := t.world.writeAnswers
        oracleDraws := t.world.oracleDraws
        trace := s.world.trace ++ scanTrace Config.params bus statuses }

/-- DEVRST from an idle block with a silent host (R179, R180; with R175 to R178): `exec` takes it, and four steps later, as
the drives answer and the delay unit answers (R72): the first drive has answered `fault` and nothing after it has happened;
or it has driven low and waited, the second drive has answered `fault` and nothing after it has happened; or it has driven
low, waited, driven high, waited and completed. -/
def Obligations.DevrstRunsToCompletion : Prop :=
  ∀ (pin : Byte) (low high : Millis) (s : State), s.block.flags.busy = false → s.hostSilent →
    ∃ s₁, exec (.devrst pin low high) s = .next s₁ ∧
      (∀ w₁, s.world.nextPinAnswer = some (.fault, w₁) → run 4 s₁ = .next
        { block := { s.block with
            latch := { s.block.latch with pin := pin, low := low, high := high }
            seq := { s.block.seq with opc := .idle, ph := .idle }
            flags := { busy := false, done := false, pinfault := true, stage := false, illegal := false, overrun := false } }
          world := { w₁ with trace := s.world.trace ++ [.pl pin .fault] } }) ∧
      ∀ w₁ w₂, s.world.nextPinAnswer = some (.ok, w₁) → w₁.serves .delay = some w₂ →
        (∀ w₃, w₂.nextPinAnswer = some (.fault, w₃) → run 4 s₁ = .next
        { block := { s.block with
            latch := { s.block.latch with pin := pin, low := low, high := high }
            seq := { s.block.seq with opc := .idle, ph := .idle }
            flags := { busy := false, done := false, pinfault := true, stage := true, illegal := false, overrun := false } }
          world := { w₃ with trace := s.world.trace ++ [.pl pin .ok, .dl low, .ph1 pin .fault] } }) ∧
        ∀ w₃ w₄, w₂.nextPinAnswer = some (.ok, w₃) → w₃.serves .delay = some w₄ → run 4 s₁ = .next
        { block := { s.block with
            latch := { s.block.latch with pin := pin, low := low, high := high }
            seq := { s.block.seq with opc := .idle, ph := .idle }
            flags := { busy := false, done := true, pinfault := false, stage := false, illegal := false, overrun := false } }
          world := { w₄ with trace := s.world.trace ++ [.pl pin .ok, .dl low, .ph1 pin .ok, .dl high] } }

/-- RDREG from an idle block with a silent host and a bus that answers both requests (R71), as R191 and R197 say, with
R190 and R199: `exec` takes it, and two steps later exactly one write with `stop = 0` and one read with `stop = 1`
have been issued, whatever the write answered; the result is absent iff the read answered `NACK_CODE`, else the byte
received, or `PLACEHOLDER` where none was. -/
def Obligations.RdregRunsToCompletion : Prop :=
  ∀ (bus : Byte) (addr : DevAddr) (reg : Byte) (s : State), s.block.flags.busy = false → s.hostSilent →
    ∀ ws w₁ r w₂, s.world.nextWriteAnswer = some (ws, w₁) → w₁.nextReadAnswer = some (r, w₂) →
    ∃ s₁, exec (.rdreg bus addr reg) s = .next s₁ ∧
      run 2 s₁ = .next
        { block := { s.block with
            desc := { addr := addr, len := 1, valid := false, buf0 := r.rx.getD Config.params.placeholder }
            latch := { s.block.latch with bus := bus, addr := addr, reg := reg }
            seq := { s.block.seq with opc := .idle, ph := .idle }
            flags := { busy := false, done := true, pinfault := false, stage := false, illegal := false, overrun := false }
            res := { lastWrite := ws, lastRead := r.status
                     present := decide (r.status ≠ Config.params.nackCode)
                     value := if r.status = Config.params.nackCode then 0 else r.rx.getD Config.params.placeholder } }
          world := { w₂ with trace := s.world.trace ++
            [.bw bus addr 1 [reg] Config.params.timeoutUnits false ws,
             .br bus addr 1 Config.params.timeoutUnits true r.status r.rx] } }

/-- PROBE from an idle block with a silent host and legal list lengths, a bus and a delay unit that answer every
request, a sink that takes every record (R71 to R73) and drives that answer `ok`, as R212, R215 and R218 say, with
R210 to R220: `exec` takes it, and it ends after one reset sequence and `CFG_REPEAT` sweeps of the whole matrix,
address-major, every register read reported iff it returned a value, each sweep closed by `SWEEP_DONE` and `FLUSH`;
what it leaves of every register and of the world. The reads' answers are any, the first of them those the environment
has listed. -/
def Obligations.ProbeRunsToCompletion : Prop :=
  ∀ s : State, s.block.flags.busy = false → s.hostSilent → s.answeredBy .bus → s.answeredBy .delay →
    s.answeredBy .sink → CfgInv s.block.cfg →
    ∀ w₁ w₂, s.world.nextPinAnswer = some (.ok, w₁) → w₁.nextPinAnswer = some (.ok, w₂) →
    ∃ s₁ sweeps n t, exec .probe s = .next s₁ ∧ run n s₁ = .next t ∧
      sweeps.length = s.block.cfg.repeatCount.toNat ∧
      (∀ answers ∈ sweeps, answers.length = s.block.cfg.naddr.toNat * s.block.cfg.nreg.toNat) ∧
      (sweeps.flatten.map fun x => x.1).take s.world.writeAnswers.length =
        s.world.writeAnswers.take sweeps.flatten.length ∧
      (sweeps.flatten.map fun x => x.2).take s.world.readAnswers.length =
        s.world.readAnswers.take sweeps.flatten.length ∧
      t.block =
        { desc := match (s.block.cfg.readsOf sweeps).getLast? with
            | none => s.block.desc
            | some x => { addr := x.1.1, len := 1, valid := false, buf0 := x.2.2.rx.getD Config.params.placeholder }
          latch := { bus := s.block.cfg.bus, pin := s.block.cfg.pin, low := s.block.cfg.lowMs, high := s.block.cfg.highMs
                     addr := match (s.block.cfg.readsOf sweeps).getLast? with
                       | none => s.block.latch.addr
                       | some x => x.1.1
                     reg := match (s.block.cfg.readsOf sweeps).getLast? with
                       | none => s.block.latch.reg
                       | some x => x.1.2 }
          seq := { s.block.seq with opc := .idle, ph := .idle, k := s.block.cfg.repeatCount, i := 0, j := 0 }
          flags := { busy := false, done := true, pinfault := false, stage := false, illegal := false, overrun := false }
          res := match (s.block.cfg.readsOf sweeps).getLast? with
            | none => s.block.res
            | some x => { present := (readResult Config.params x.2.2).isSome
                          value := (readResult Config.params x.2.2).getD 0
                          lastWrite := x.2.1, lastRead := x.2.2.status }
          cfg := s.block.cfg } ∧
      t.world = { s.world with
        writeAnswers := s.world.writeAnswers.drop sweeps.flatten.length
        readAnswers := s.world.readAnswers.drop sweeps.flatten.length
        pinAnswers := s.world.pinAnswers.drop 2
        gpio := w₂.gpio
        oracleDraws := t.world.oracleDraws
        trace := s.world.trace ++ probeTrace Config.params s.block.cfg sweeps }

/-- R211: a PROBE whose reset sequence fails is abandoned in that step, at the low drive, or at the high drive after an
answered low drive and delay: no bus request and no record is ever issued, and the end state shows which drive failed. -/
def Obligations.ProbeAbandonedByPinFault : Prop :=
  ∀ s : State, s.block.flags.busy = false → s.hostSilent →
    ∃ s₁, exec .probe s = .next s₁ ∧
      (∀ w₁, s.world.nextPinAnswer = some (.fault, w₁) → ∀ n, ∃ t, run (n + 1) s₁ = .next t ∧
        t.block.flags = { busy := false, done := false, pinfault := true, stage := false, illegal := false, overrun := false } ∧
        t.block.seq.opc = .idle ∧ t.block.seq.ph = .idle ∧
        t.world = { w₁ with trace := s.world.trace ++ [.pl s.block.cfg.pin .fault] }) ∧
      ∀ w₁ w₂ w₃, s.world.nextPinAnswer = some (.ok, w₁) → w₁.serves .delay = some w₂ →
        w₂.nextPinAnswer = some (.fault, w₃) → ∀ n, ∃ t, run (n + 3) s₁ = .next t ∧
          t.block.flags = { busy := false, done := false, pinfault := true, stage := true, illegal := false, overrun := false } ∧
          t.block.seq.opc = .idle ∧ t.block.seq.ph = .idle ∧
          t.world = { w₃ with trace := s.world.trace ++
            [.pl s.block.cfg.pin .ok, .dl s.block.cfg.lowMs, .ph1 s.block.cfg.pin .fault] }

/-- R233: a drive that answers `fault` abandons the operation in that step, changing only the flags, `OPC` and `PH`, and
no further port request of it is ever issued. -/
def Obligations.PinFaultAbandons : Prop :=
  ∀ (s : State) (level : Bool) (w : World), PhaseInv s.block → s.hostSilent →
    s.block.seq.ph = (if level then .dHigh else .dLow) → s.world.nextPinAnswer = some (.fault, w) →
    ∀ n, run (n + 1) s = .next
      { block := { s.block with
          flags := { s.block.flags with busy := false, pinfault := true, stage := level }
          seq := { s.block.seq with opc := .idle, ph := .idle } }
        world := { w with trace := s.world.trace ++
          [if level then .ph1 s.block.latch.pin .fault else .pl s.block.latch.pin .fault] } }

/-- R194, WSTATUS_IGNORE: two machines that differ only in what the write phase answers differ after it only in
`LAST_WSTATUS` and in the event that records the answer; the read phase follows in both. -/
def Obligations.WriteStatusIgnored : Prop :=
  ∀ (P : Params) (s t t' : State) (w : World) (ws ws' : StatusCode) (rest : List StatusCode),
    s.block.seq.ph = .gWrite → s.world.serves .bus = some w →
    seqStep P { s with world := { s.world with writeAnswers := ws :: rest } } = .next t →
    seqStep P { s with world := { s.world with writeAnswers := ws' :: rest } } = .next t' →
      t.block.seq.ph = .gRead ∧ t.block.res.lastWrite = ws ∧
      t'.block = { t.block with res := { t.block.res with lastWrite := ws' } } ∧
      t.world = { w with
        writeAnswers := rest
        trace := s.world.trace ++
          [.bw s.block.latch.bus s.block.latch.addr 1 [s.block.latch.reg] P.timeoutUnits false ws] } ∧
      t'.world = { w with
        writeAnswers := rest
        trace := s.world.trace ++
          [.bw s.block.latch.bus s.block.latch.addr 1 [s.block.latch.reg] P.timeoutUnits false ws'] }

/-- Success and TransportFault are treated alike (R133, R232): two machines that differ only in which non-NACK status a
probe, or a read phase with the same byte, answers issue the same one request, and differ after it only in the latch that
stores the status and in the event that records it; the probe is a hit in both, the read has a result in both. -/
def Obligations.FaultsTreatedAsSuccess : Prop :=
  ∀ (P : Params) (s t t' : State) (w : World), s.world.serves .bus = some w →
    (∀ (st st' : StatusCode) (rest : List StatusCode), statusClass P st ≠ .addrNack → statusClass P st' ≠ .addrNack →
      s.block.seq.ph = .sProbe →
      seqStep P { s with world := { s.world with writeAnswers := st :: rest } } = .next t →
      seqStep P { s with world := { s.world with writeAnswers := st' :: rest } } = .next t' →
        t.block.seq.ph = .sHit ∧ t.block.res.lastWrite = st ∧
        t'.block = { t.block with res := { t.block.res with lastWrite := st' } } ∧
        t.world = { w with
          writeAnswers := rest
          trace := s.world.trace ++
            [.bw s.block.latch.bus (s.block.seq.a.truncate 7) 0 [] P.timeoutUnits true st] } ∧
        t'.world = { w with
          writeAnswers := rest
          trace := s.world.trace ++
            [.bw s.block.latch.bus (s.block.seq.a.truncate 7) 0 [] P.timeoutUnits true st'] }) ∧
    ∀ (r r' : ReadAnswer) (rest : List ReadAnswer), statusClass P r.status ≠ .addrNack →
      statusClass P r'.status ≠ .addrNack → r'.rx = r.rx → s.block.seq.ph = .gRead →
      seqStep P { s with world := { s.world with readAnswers := r :: rest } } = .next t →
      seqStep P { s with world := { s.world with readAnswers := r' :: rest } } = .next t' →
        t.block.res.present = true ∧ t.block.res.value = r.rx.getD P.placeholder ∧ t.block.res.lastRead = r.status ∧
        t'.block = { t.block with res := { t.block.res with lastRead := r'.status } } ∧
        t.world = { w with
          readAnswers := rest
          trace := s.world.trace ++
            [.br s.block.latch.bus s.block.desc.addr 1 P.timeoutUnits true r.status r.rx] } ∧
        t'.world = { w with
          readAnswers := rest
          trace := s.world.trace ++
            [.br s.block.latch.bus s.block.desc.addr 1 P.timeoutUnits true r'.status r.rx] }

/-- A collaborator that never answers (R265's missing response, R277, U15) stalls every phase with a request to it, the sink
a reporting phase, the bus, the GPIO or the delay unit a phase of theirs: whatever the host does, short of a block reset, the
block stays busy in that phase and no port event happens; in each of its turns the sequencer waits, with the descriptor of
a bus request populated; and a block reset ends the wait, leaving no event. That never answering is a count of answers that
has run out, and that a request which is not answered leaves no event, is the model's form (log entries 3 and 6). -/
def Obligations.SilentCollaboratorStalls : Prop :=
  ∀ (s : State) (c : Collaborator), s.block.seq.ph.collaborator = some c → s.silent c →
    (∀ n, BlockInv Config.params s.block → (∀ h ∈ s.world.host, h.isReset = false) →
      ∃ t, run n s = .next t ∧ t.block.seq = s.block.seq ∧ t.block.flags.busy = true ∧ t.silent c ∧
        t.world.trace = s.world.trace) ∧
    (∀ P : Params, s.block.seq.ph.usedBy s.block.seq.opc = true →
      (s.block.seq.ph = .sProbe ∨ s.block.seq.ph = .sHit → s.block.seq.a.toNat ≤ 127) →
      seqStep P s = .next { s with block := s.block.requesting P } ∧
      ((s.block.requesting P).desc.valid = true ↔ c = .bus ∨ s.block.desc.valid = true)) ∧
    ∀ (carriedOut : Bool) (rest : List HostTurn), s.world.host = .reset carriedOut :: rest →
      step s = .next { block := State.reset.block, world := { s.world with host := rest } }

/-! ## Invariants -/

/-- The block after reset is legal. -/
def Obligations.ResetIsLegal : Prop := BlockInv Config.params State.reset.block

/-- Every step keeps the block legal: phases (R26, R31), flags (R35, R38), descriptor (R22, R23), list lengths (R51, R52),
counters (R27 to R30), latches (R25, R195, R213). -/
def Obligations.StepKeepsLegal : Prop :=
  ∀ s t : State, BlockInv Config.params s.block → step s = .next t → BlockInv Config.params t.block

/-- A legal machine never stops: every step answers a next state (R230: no condition stops the block). -/
def Obligations.LegalStatesStep : Prop :=
  ∀ s : State, BlockInv Config.params s.block → ∃ t, step s = .next t

/-- R38, over every run from reset, under every host, every environment and every block reset: no step stops, and at
every moment at most one of `DONE`, `PINFAULT`, `ILLEGAL` is 1 and each implies `BUSY == 0`. -/
def Obligations.EveryRunKeepsFlagsExclusive : Prop :=
  ∀ (w : World) (n : Nat), ∃ t, run n { block := State.reset.block, world := w } = .next t ∧
    ¬(t.block.flags.done = true ∧ t.block.flags.pinfault = true) ∧
    ¬(t.block.flags.done = true ∧ t.block.flags.illegal = true) ∧
    ¬(t.block.flags.pinfault = true ∧ t.block.flags.illegal = true) ∧
    (t.block.flags.busy = true →
      t.block.flags.done = false ∧ t.block.flags.pinfault = false ∧ t.block.flags.illegal = false)

/-- R80: a bus is held exactly between the two phases of a register read, so no bus is held when the block is idle. Every
step but a block reset keeps this (R262 says what a block reset may do to it). -/
def Obligations.BusHeldOnlyInsideRead : Prop :=
  (∀ s t : State, PhaseInv s.block → HeldInv s → (∀ c rest, s.world.host ≠ .reset c :: rest) →
    step s = .next t → HeldInv t) ∧
  ∀ s : State, PhaseInv s.block → HeldInv s → s.block.seq.opc = .idle → ∀ bus, heldBy s.world.trace bus = false

/-- R77: the read phase with `stop = 1`, from the same device on the same bus, is the very next port event after every
write with `stop = 0`. Every step but a block reset keeps this. -/
def Obligations.ReadFollowsEveryHold : Prop :=
  ∀ s t : State, PhaseInv s.block → ReadFollowsHold s → (∀ c rest, s.world.host ≠ .reset c :: rest) →
    step s = .next t → ReadFollowsHold t

/-- Every bus request carries `TIMEOUT_UNITS`, 1000 (R135), whatever happens, block resets included. -/
def Obligations.TimeoutOnEveryRequest : Prop :=
  Config.params.timeoutUnits = 1000 ∧
  ∀ s t : State, (∀ e ∈ s.world.trace, e.timeoutIs Config.params.timeoutUnits) → step s = .next t →
    ∀ e ∈ t.world.trace, e.timeoutIs Config.params.timeoutUnits

/-- No event is reordered, repeated or dropped (R75): a step adds at most one event, at the end of the trace. -/
def Obligations.TraceGrowsByOneEvent : Prop :=
  ∀ s t : State, step s = .next t → ∃ l : List PortEvent, l.length ≤ 1 ∧ t.world.trace = s.world.trace ++ l

/-- Host accesses cannot disturb an operation (R55, R64, R235): mix any host reads and writes into a run of the
sequencer that is still busy at its end, and the same number of sequencer turns leads to the same state, the host's
own record and `OVERRUN` apart. -/
def Obligations.HostAccessesCannotDisturb : Prop :=
  ∀ (turns : List HostTurn) (s u : State), PhaseInv s.block → s.world.host = turns →
    (∀ h ∈ turns, h.isReset = false) →
    run (turns.countP fun h => !h.isAccess) { s with world := { s.world with host := [] } } = .next u →
    u.block.flags.busy = true →
    ∃ v, run turns.length s = .next v ∧ v.world.host = [] ∧ AgreeButHost u v

/-! ## Parameters -/

/-- R5's table, row by row, with R6's constraints: the structural parameters have their values in every instance and are
the widths of the types State is made of, this instance has R5's value of the others, and a block reset takes its three
reference values from the parameters (R48 to R50). -/
def Obligations.ParameterTable : Prop :=
  (∀ P : Params,
    P.widths = { addrW := 7, regW := 8, dataW := 8, busW := 8, pinW := 8, msW := 10, lenW := 16, statusW := 32,
                 timeoutW := 32, repeatW := 16 } ∧
    P.numAddr = 128 ∧ P.listMax = 16 ∧ P.nackCode ≠ 0 ∧ 0 < P.timeoutUnit ∧
    DevAddr = BitVec P.widths.addrW ∧ Byte = BitVec P.widths.regW ∧ Byte = BitVec P.widths.dataW ∧
    Byte = BitVec P.widths.busW ∧ Byte = BitVec P.widths.pinW ∧ Millis = BitVec P.widths.msW ∧
    StatusCode = BitVec P.widths.statusW ∧ Word = BitVec P.widths.timeoutW) ∧
  Config.params.timeoutUnits = 1000 ∧ Config.params.placeholder = 0 ∧ Config.params.refSettleLowMs = 20 ∧
  Config.params.refSettleHighMs = 400 ∧ Config.params.refRepeat = 20 ∧
  ∀ (P : Params) (s : State) (carriedOut : Bool) (rest : List HostTurn), s.world.host = .reset carriedOut :: rest →
    ∃ t, stepWith P s = .next t ∧ t.block.cfg.lowMs = P.refSettleLowMs ∧ t.block.cfg.highMs = P.refSettleHighMs ∧
      t.block.cfg.repeatCount = P.refRepeat

/-! ## The descriptor -/

/-- `DESC_VALID` is 1 only while a bus request is outstanding (R23, R137), which in this model, where a request and
its answer are one step (log entry 8), is while the bus primitive does not answer. Every step keeps this; reset has
it. -/
def Obligations.DescriptorValidOnlyWhileUnanswered : Prop :=
  State.reset.block.desc.valid = false ∧
  ∀ s t : State, PhaseInv s.block →
    (s.block.desc.valid = true → s.block.seq.ph.collaborator = some .bus ∧ s.silent .bus) → step s = .next t →
    (t.block.desc.valid = true → t.block.seq.ph.collaborator = some .bus ∧ t.silent .bus)
end

