-- ==== Sys2Proof/Laws/Encoding.lean ====
section
/-! SUPPORT. Encoding and decoding as arithmetic: a field is a quotient and remainder, a word is a sum of shifted fields. -/

namespace Sys2Proof

/-- Concatenation as arithmetic (R7). -/
theorem toNat_append_eq {n m : Nat} (x : BitVec n) (y : BitVec m) : (x ++ y).toNat = x.toNat * 2 ^ m + y.toNat := by
  rw [BitVec.toNat_append, ← Nat.shiftLeft_add_eq_or_of_lt y.isLt, Nat.shiftLeft_eq]

/-- A field as arithmetic (R7). -/
theorem field_toNat (w : Word) (hi lo : Nat) : (field w hi lo).toNat = w.toNat / 2 ^ lo % 2 ^ (hi - lo + 1) := by
  simp [field, BitVec.extractLsb, Nat.shiftRight_eq_div_pow]

theorem encode_scan_toNat (bus : Byte) : (encode (.scan bus)).toNat = 0x10000000 + bus.toNat :=
  toNat_append_eq (0x1#4 ++ 0#20) bus

theorem encode_devrst_toNat (pin : Byte) (low high : Millis) :
    (encode (.devrst pin low high)).toNat = 0x20000000 + pin.toNat * 2 ^ 20 + low.toNat * 2 ^ 10 + high.toNat := by
  have h1 : (encode (.devrst pin low high)).toNat = (0x2#4 ++ pin ++ low ++ high).toNat := rfl
  have hk : (0x2#4).toNat = 2 := rfl
  rw [h1, toNat_append_eq, toNat_append_eq, toNat_append_eq, hk]
  omega

theorem encode_rdreg_toNat (bus : Byte) (addr : DevAddr) (reg : Byte) :
    (encode (.rdreg bus addr reg)).toNat = 0x30000000 + bus.toNat * 2 ^ 16 + addr.toNat * 2 ^ 8 + reg.toNat := by
  have h1 : (encode (.rdreg bus addr reg)).toNat = (0x3#4 ++ 0#4 ++ bus ++ 0#1 ++ addr ++ reg).toNat := rfl
  have hk : (0x3#4 ++ 0#4).toNat = 48 := rfl
  have hz : (0#1).toNat = 0 := rfl
  rw [h1, toNat_append_eq, toNat_append_eq, toNat_append_eq, toNat_append_eq, hk, hz]
  omega

theorem encode_probe_toNat : (encode .probe).toNat = 0x40000000 := rfl

/-- A field read as a number (R106). -/
theorem field_eq {w : Word} {hi lo : Nat} {v : BitVec (hi - lo + 1)}
    (h : w.toNat / 2 ^ lo % 2 ^ (hi - lo + 1) = v.toNat) : field w hi lo = v :=
  BitVec.eq_of_toNat_eq (by rw [field_toNat, h])

/-- A masked comparison, bit by bit (R107). -/
theorem mask_eq_iff (w m v : Word) : w &&& m = v ↔ ∀ i, i < 32 → (w.getLsbD i && m.getLsbD i) = v.getLsbD i := by
  constructor
  · rintro rfl i _; simp
  · intro h; exact BitVec.eq_of_getLsbD_eq fun i hi => by simpa using h i hi

/-- A field comparison, bit by bit (R7). -/
theorem field_eq_iff (w : Word) (hi lo : Nat) (v : BitVec (hi - lo + 1)) :
    field w hi lo = v ↔ ∀ i, i < hi - lo + 1 → w.getLsbD (lo + i) = v.getLsbD i := by
  constructor
  · rintro rfl i h; simp [field, h]
  · intro h
    apply BitVec.eq_of_getLsbD_eq
    intro i hi
    rw [← h i hi]; simp [field, hi]

end Sys2Proof
end

