-- ==== Sys2Proof/Laws/State.lean ====
section
/-! SUPPORT. The fixed values of the structural parameters, and one lemma per field (or group of fields) per update of the
state: each holds by unfolding the update once, so that no later proof does. -/

namespace Sys2Proof

/-! ## The structural parameters (R5, U8) -/

/-- `NUM_ADDR` is 128 (R161). -/
@[simp] theorem Params.numAddr_val (P : Params) : P.numAddr = 128 := by
  rw [P.numAddr_eq, P.widths_eq]; rfl

/-- `LIST_MAX` is 16. -/
@[simp] theorem Params.listMax_val (P : Params) : P.listMax = 16 := P.listMax_eq

/-- The widths are R5's. -/
@[simp] theorem Params.widths_val (P : Params) : P.widths = Widths.spec := P.widths_eq

/-- A scan is over after the address 127 and no other (R27, R161). -/
theorem Params.scan_over_iff (P : Params) {a : BitVec 8} (h : a.toNat ≤ 127) : (a + 1).toNat = P.numAddr ↔ a = 127 := by
  rw [P.numAddr_val]
  constructor
  · intro h'
    bv_omega
  · rintro rfl; rfl

end Sys2Proof

namespace Sys2Proof.Machine

/-! ## Flags (R32 to R37) -/

@[simp] theorem Flags.cleared_busy (f : Flags) : (f.cleared).busy = f.busy := rfl
@[simp] theorem Flags.cleared_done (f : Flags) : (f.cleared).done = false := rfl
@[simp] theorem Flags.cleared_pinfault (f : Flags) : (f.cleared).pinfault = false := rfl
@[simp] theorem Flags.cleared_stage (f : Flags) : (f.cleared).stage = false := rfl
@[simp] theorem Flags.cleared_illegal (f : Flags) : (f.cleared).illegal = false := rfl
@[simp] theorem Flags.cleared_overrun (f : Flags) : (f.cleared).overrun = false := rfl

@[simp] theorem Flags.accepted_busy (f : Flags) : (f.accepted).busy = true := rfl
@[simp] theorem Flags.accepted_done (f : Flags) : (f.accepted).done = false := rfl
@[simp] theorem Flags.accepted_pinfault (f : Flags) : (f.accepted).pinfault = false := rfl
@[simp] theorem Flags.accepted_stage (f : Flags) : (f.accepted).stage = false := rfl
@[simp] theorem Flags.accepted_illegal (f : Flags) : (f.accepted).illegal = false := rfl
@[simp] theorem Flags.accepted_overrun (f : Flags) : (f.accepted).overrun = false := rfl

@[simp] theorem Flags.illegalTaken_busy (f : Flags) : (f.illegalTaken).busy = f.busy := rfl
@[simp] theorem Flags.illegalTaken_done (f : Flags) : (f.illegalTaken).done = false := rfl
@[simp] theorem Flags.illegalTaken_pinfault (f : Flags) : (f.illegalTaken).pinfault = false := rfl
@[simp] theorem Flags.illegalTaken_stage (f : Flags) : (f.illegalTaken).stage = false := rfl
@[simp] theorem Flags.illegalTaken_illegal (f : Flags) : (f.illegalTaken).illegal = true := rfl
@[simp] theorem Flags.illegalTaken_overrun (f : Flags) : (f.illegalTaken).overrun = false := rfl

@[simp] theorem Flags.overran_busy (f : Flags) : (f.overran).busy = f.busy := rfl
@[simp] theorem Flags.overran_done (f : Flags) : (f.overran).done = f.done := rfl
@[simp] theorem Flags.overran_pinfault (f : Flags) : (f.overran).pinfault = f.pinfault := rfl
@[simp] theorem Flags.overran_stage (f : Flags) : (f.overran).stage = f.stage := rfl
@[simp] theorem Flags.overran_illegal (f : Flags) : (f.overran).illegal = f.illegal := rfl
@[simp] theorem Flags.overran_overrun (f : Flags) : (f.overran).overrun = true := rfl

@[simp] theorem Flags.completed_busy (f : Flags) : (f.completed).busy = false := rfl
@[simp] theorem Flags.completed_done (f : Flags) : (f.completed).done = true := rfl
@[simp] theorem Flags.completed_pinfault (f : Flags) : (f.completed).pinfault = f.pinfault := rfl
@[simp] theorem Flags.completed_stage (f : Flags) : (f.completed).stage = f.stage := rfl
@[simp] theorem Flags.completed_illegal (f : Flags) : (f.completed).illegal = f.illegal := rfl
@[simp] theorem Flags.completed_overrun (f : Flags) : (f.completed).overrun = f.overrun := rfl

@[simp] theorem Flags.pinFaulted_busy (stage : Bool) (f : Flags) : (f.pinFaulted stage).busy = false := rfl
@[simp] theorem Flags.pinFaulted_done (stage : Bool) (f : Flags) : (f.pinFaulted stage).done = f.done := rfl
@[simp] theorem Flags.pinFaulted_pinfault (stage : Bool) (f : Flags) : (f.pinFaulted stage).pinfault = true := rfl
@[simp] theorem Flags.pinFaulted_stage (stage : Bool) (f : Flags) : (f.pinFaulted stage).stage = stage := rfl
@[simp] theorem Flags.pinFaulted_illegal (stage : Bool) (f : Flags) : (f.pinFaulted stage).illegal = f.illegal := rfl
@[simp] theorem Flags.pinFaulted_overrun (stage : Bool) (f : Flags) : (f.pinFaulted stage).overrun = f.overrun := rfl

/-! ## Operand loads and populate steps (R110, R162, R192, R195) -/

@[simp] theorem Block.loadScan_desc (bus : Byte) (b : Block) : (b.loadScan bus).desc = b.desc := rfl
@[simp] theorem Block.loadScan_latch (bus : Byte) (b : Block) : (b.loadScan bus).latch = { b.latch with bus := bus } := rfl
@[simp] theorem Block.loadScan_seq (bus : Byte) (b : Block) : (b.loadScan bus).seq = { b.seq with opc := .scan, ph := .sProbe, a := 0 } := rfl
@[simp] theorem Block.loadScan_flags (bus : Byte) (b : Block) : (b.loadScan bus).flags = b.flags := rfl
@[simp] theorem Block.loadScan_res (bus : Byte) (b : Block) : (b.loadScan bus).res = b.res := rfl
@[simp] theorem Block.loadScan_cfg (bus : Byte) (b : Block) : (b.loadScan bus).cfg = b.cfg := rfl

@[simp] theorem Block.loadDevrst_desc (pin : Byte) (lowMs highMs : Millis) (b : Block) : (b.loadDevrst pin lowMs highMs).desc = b.desc := rfl
@[simp] theorem Block.loadDevrst_latch (pin : Byte) (lowMs highMs : Millis) (b : Block) : (b.loadDevrst pin lowMs highMs).latch = { b.latch with pin := pin, low := lowMs, high := highMs } := rfl
@[simp] theorem Block.loadDevrst_seq (pin : Byte) (lowMs highMs : Millis) (b : Block) : (b.loadDevrst pin lowMs highMs).seq = { b.seq with opc := .devrst, ph := .dLow } := rfl
@[simp] theorem Block.loadDevrst_flags (pin : Byte) (lowMs highMs : Millis) (b : Block) : (b.loadDevrst pin lowMs highMs).flags = b.flags := rfl
@[simp] theorem Block.loadDevrst_res (pin : Byte) (lowMs highMs : Millis) (b : Block) : (b.loadDevrst pin lowMs highMs).res = b.res := rfl
@[simp] theorem Block.loadDevrst_cfg (pin : Byte) (lowMs highMs : Millis) (b : Block) : (b.loadDevrst pin lowMs highMs).cfg = b.cfg := rfl

@[simp] theorem Block.loadRdreg_desc (bus : Byte) (addr : DevAddr) (reg : Byte) (b : Block) : (b.loadRdreg bus addr reg).desc = b.desc := rfl
@[simp] theorem Block.loadRdreg_latch (bus : Byte) (addr : DevAddr) (reg : Byte) (b : Block) : (b.loadRdreg bus addr reg).latch = { b.latch with bus := bus, addr := addr, reg := reg } := rfl
@[simp] theorem Block.loadRdreg_seq (bus : Byte) (addr : DevAddr) (reg : Byte) (b : Block) : (b.loadRdreg bus addr reg).seq = { b.seq with opc := .rdreg, ph := .gWrite } := rfl
@[simp] theorem Block.loadRdreg_flags (bus : Byte) (addr : DevAddr) (reg : Byte) (b : Block) : (b.loadRdreg bus addr reg).flags = b.flags := rfl
@[simp] theorem Block.loadRdreg_res (bus : Byte) (addr : DevAddr) (reg : Byte) (b : Block) : (b.loadRdreg bus addr reg).res = b.res := rfl
@[simp] theorem Block.loadRdreg_cfg (bus : Byte) (addr : DevAddr) (reg : Byte) (b : Block) : (b.loadRdreg bus addr reg).cfg = b.cfg := rfl

@[simp] theorem Block.loadProbe_desc (b : Block) : (b.loadProbe).desc = b.desc := rfl
@[simp] theorem Block.loadProbe_latch (b : Block) : (b.loadProbe).latch = { b.latch with bus := b.cfg.bus, pin := b.cfg.pin, low := b.cfg.lowMs, high := b.cfg.highMs } := rfl
@[simp] theorem Block.loadProbe_seq (b : Block) : (b.loadProbe).seq = { b.seq with opc := .probe, ph := .dLow, k := 0, i := 0, j := 0 } := rfl
@[simp] theorem Block.loadProbe_flags (b : Block) : (b.loadProbe).flags = b.flags := rfl
@[simp] theorem Block.loadProbe_res (b : Block) : (b.loadProbe).res = b.res := rfl
@[simp] theorem Block.loadProbe_cfg (b : Block) : (b.loadProbe).cfg = b.cfg := rfl

@[simp] theorem Block.populateProbe_desc (b : Block) : (b.populateProbe).desc = { b.desc with addr := b.seq.scanAddr, len := 0, valid := true } := rfl
@[simp] theorem Block.populateProbe_latch (b : Block) : (b.populateProbe).latch = b.latch := rfl
@[simp] theorem Block.populateProbe_seq (b : Block) : (b.populateProbe).seq = b.seq := rfl
@[simp] theorem Block.populateProbe_flags (b : Block) : (b.populateProbe).flags = b.flags := rfl
@[simp] theorem Block.populateProbe_res (b : Block) : (b.populateProbe).res = b.res := rfl
@[simp] theorem Block.populateProbe_cfg (b : Block) : (b.populateProbe).cfg = b.cfg := rfl

@[simp] theorem Block.populateWrite_desc (b : Block) : (b.populateWrite).desc = { addr := b.latch.addr, len := 1, valid := true, buf0 := b.latch.reg } := rfl
@[simp] theorem Block.populateWrite_latch (b : Block) : (b.populateWrite).latch = b.latch := rfl
@[simp] theorem Block.populateWrite_seq (b : Block) : (b.populateWrite).seq = b.seq := rfl
@[simp] theorem Block.populateWrite_flags (b : Block) : (b.populateWrite).flags = b.flags := rfl
@[simp] theorem Block.populateWrite_res (b : Block) : (b.populateWrite).res = b.res := rfl
@[simp] theorem Block.populateWrite_cfg (b : Block) : (b.populateWrite).cfg = b.cfg := rfl

@[simp] theorem Block.populateRead_desc (P : Params) (b : Block) : (b.populateRead P).desc = { b.desc with len := 1, valid := true, buf0 := P.placeholder } := rfl
@[simp] theorem Block.populateRead_latch (P : Params) (b : Block) : (b.populateRead P).latch = b.latch := rfl
@[simp] theorem Block.populateRead_seq (P : Params) (b : Block) : (b.populateRead P).seq = b.seq := rfl
@[simp] theorem Block.populateRead_flags (P : Params) (b : Block) : (b.populateRead P).flags = b.flags := rfl
@[simp] theorem Block.populateRead_res (P : Params) (b : Block) : (b.populateRead P).res = b.res := rfl
@[simp] theorem Block.populateRead_cfg (P : Params) (b : Block) : (b.populateRead P).cfg = b.cfg := rfl

/-! ## The port operations (R131, R132, R138, R140, R142) -/

@[simp] theorem State.afterWrite_desc (P : Params) (stop : Bool) (st : StatusCode) (w : World) (s : State) : (s.afterWrite P stop st w).block.desc = { s.block.desc with valid := false } := rfl
@[simp] theorem State.afterWrite_latch (P : Params) (stop : Bool) (st : StatusCode) (w : World) (s : State) : (s.afterWrite P stop st w).block.latch = s.block.latch := rfl
@[simp] theorem State.afterWrite_seq (P : Params) (stop : Bool) (st : StatusCode) (w : World) (s : State) : (s.afterWrite P stop st w).block.seq = s.block.seq := rfl
@[simp] theorem State.afterWrite_flags (P : Params) (stop : Bool) (st : StatusCode) (w : World) (s : State) : (s.afterWrite P stop st w).block.flags = s.block.flags := rfl
@[simp] theorem State.afterWrite_res (P : Params) (stop : Bool) (st : StatusCode) (w : World) (s : State) : (s.afterWrite P stop st w).block.res = { s.block.res with lastWrite := st } := rfl
@[simp] theorem State.afterWrite_cfg (P : Params) (stop : Bool) (st : StatusCode) (w : World) (s : State) : (s.afterWrite P stop st w).block.cfg = s.block.cfg := rfl
@[simp] theorem State.afterWrite_world (P : Params) (stop : Bool) (st : StatusCode) (w : World) (s : State) : (s.afterWrite P stop st w).world = 
    w.record (.bw s.block.latch.bus s.block.desc.addr s.block.desc.len s.block.desc.payload P.timeoutUnits stop st) := rfl

@[simp] theorem State.afterRead_desc (P : Params) (stop : Bool) (r : ReadAnswer) (w : World) (s : State) : (s.afterRead P stop r w).block.desc = 
    { s.block.desc with valid := false, buf0 := r.rx.getD s.block.desc.buf0 } := rfl
@[simp] theorem State.afterRead_latch (P : Params) (stop : Bool) (r : ReadAnswer) (w : World) (s : State) : (s.afterRead P stop r w).block.latch = s.block.latch := rfl
@[simp] theorem State.afterRead_seq (P : Params) (stop : Bool) (r : ReadAnswer) (w : World) (s : State) : (s.afterRead P stop r w).block.seq = s.block.seq := rfl
@[simp] theorem State.afterRead_flags (P : Params) (stop : Bool) (r : ReadAnswer) (w : World) (s : State) : (s.afterRead P stop r w).block.flags = s.block.flags := rfl
@[simp] theorem State.afterRead_res (P : Params) (stop : Bool) (r : ReadAnswer) (w : World) (s : State) : (s.afterRead P stop r w).block.res = { s.block.res with lastRead := r.status } := rfl
@[simp] theorem State.afterRead_cfg (P : Params) (stop : Bool) (r : ReadAnswer) (w : World) (s : State) : (s.afterRead P stop r w).block.cfg = s.block.cfg := rfl
@[simp] theorem State.afterRead_world (P : Params) (stop : Bool) (r : ReadAnswer) (w : World) (s : State) : (s.afterRead P stop r w).world = 
    w.record (.br s.block.latch.bus s.block.desc.addr s.block.desc.len P.timeoutUnits stop r.status r.rx) := rfl

@[simp] theorem State.afterEvent_block (e : PortEvent) (w : World) (s : State) : (s.afterEvent e w).block = s.block := rfl
@[simp] theorem State.afterEvent_world (e : PortEvent) (w : World) (s : State) : (s.afterEvent e w).world = w.record e := rfl

/-! ## The sequencer's moves (R26, R33, R166, R197, R217, R233) -/

@[simp] theorem State.toPhase_desc (p : Phase) (s : State) : (s.toPhase p).block.desc = s.block.desc := rfl
@[simp] theorem State.toPhase_latch (p : Phase) (s : State) : (s.toPhase p).block.latch = s.block.latch := rfl
@[simp] theorem State.toPhase_seq (p : Phase) (s : State) : (s.toPhase p).block.seq = { s.block.seq with ph := p } := rfl
@[simp] theorem State.toPhase_flags (p : Phase) (s : State) : (s.toPhase p).block.flags = s.block.flags := rfl
@[simp] theorem State.toPhase_res (p : Phase) (s : State) : (s.toPhase p).block.res = s.block.res := rfl
@[simp] theorem State.toPhase_cfg (p : Phase) (s : State) : (s.toPhase p).block.cfg = s.block.cfg := rfl
@[simp] theorem State.toPhase_world (p : Phase) (s : State) : (s.toPhase p).world = s.world := rfl

@[simp] theorem State.complete_desc (s : State) : (s.complete).block.desc = s.block.desc := rfl
@[simp] theorem State.complete_latch (s : State) : (s.complete).block.latch = s.block.latch := rfl
@[simp] theorem State.complete_seq (s : State) : (s.complete).block.seq = { s.block.seq with opc := .idle, ph := .idle } := rfl
@[simp] theorem State.complete_flags (s : State) : (s.complete).block.flags = s.block.flags.completed := rfl
@[simp] theorem State.complete_res (s : State) : (s.complete).block.res = s.block.res := rfl
@[simp] theorem State.complete_cfg (s : State) : (s.complete).block.cfg = s.block.cfg := rfl
@[simp] theorem State.complete_world (s : State) : (s.complete).world = s.world := rfl

@[simp] theorem State.raisePinFault_desc (stage : Bool) (s : State) : (s.raisePinFault stage).block.desc = s.block.desc := rfl
@[simp] theorem State.raisePinFault_latch (stage : Bool) (s : State) : (s.raisePinFault stage).block.latch = s.block.latch := rfl
@[simp] theorem State.raisePinFault_seq (stage : Bool) (s : State) : (s.raisePinFault stage).block.seq = { s.block.seq with opc := .idle, ph := .idle } := rfl
@[simp] theorem State.raisePinFault_flags (stage : Bool) (s : State) : (s.raisePinFault stage).block.flags = s.block.flags.pinFaulted stage := rfl
@[simp] theorem State.raisePinFault_res (stage : Bool) (s : State) : (s.raisePinFault stage).block.res = s.block.res := rfl
@[simp] theorem State.raisePinFault_cfg (stage : Bool) (s : State) : (s.raisePinFault stage).block.cfg = s.block.cfg := rfl
@[simp] theorem State.raisePinFault_world (stage : Bool) (s : State) : (s.raisePinFault stage).world = s.world := rfl

@[simp] theorem State.scanAdvance_desc (P : Params) (s : State) : (s.scanAdvance P).block.desc = s.block.desc := rfl
@[simp] theorem State.scanAdvance_latch (P : Params) (s : State) : (s.scanAdvance P).block.latch = s.block.latch := rfl
@[simp] theorem State.scanAdvance_seq (P : Params) (s : State) : (s.scanAdvance P).block.seq = 
    { s.block.seq with a := s.block.seq.a + 1
                       ph := if (s.block.seq.a + 1).toNat = P.numAddr then .sFlush else .sProbe } := rfl
@[simp] theorem State.scanAdvance_flags (P : Params) (s : State) : (s.scanAdvance P).block.flags = s.block.flags := rfl
@[simp] theorem State.scanAdvance_res (P : Params) (s : State) : (s.scanAdvance P).block.res = s.block.res := rfl
@[simp] theorem State.scanAdvance_cfg (P : Params) (s : State) : (s.scanAdvance P).block.cfg = s.block.cfg := rfl
@[simp] theorem State.scanAdvance_world (P : Params) (s : State) : (s.scanAdvance P).world = s.world := rfl

@[simp] theorem State.probeAdvance_desc (s : State) : (s.probeAdvance).block.desc = s.block.desc := rfl
@[simp] theorem State.probeAdvance_latch (s : State) : (s.probeAdvance).block.latch = s.block.latch := rfl
@[simp] theorem State.probeAdvance_seq (s : State) : (s.probeAdvance).block.seq = { s.block.seq with j := s.block.seq.j + 1, ph := .pNext } := rfl
@[simp] theorem State.probeAdvance_flags (s : State) : (s.probeAdvance).block.flags = s.block.flags := rfl
@[simp] theorem State.probeAdvance_res (s : State) : (s.probeAdvance).block.res = s.block.res := rfl
@[simp] theorem State.probeAdvance_cfg (s : State) : (s.probeAdvance).block.cfg = s.block.cfg := rfl
@[simp] theorem State.probeAdvance_world (s : State) : (s.probeAdvance).world = s.world := rfl

@[simp] theorem State.nextSweep_desc (s : State) : (s.nextSweep).block.desc = s.block.desc := rfl
@[simp] theorem State.nextSweep_latch (s : State) : (s.nextSweep).block.latch = s.block.latch := rfl
@[simp] theorem State.nextSweep_seq (s : State) : (s.nextSweep).block.seq = { s.block.seq with k := s.block.seq.k + 1, i := 0, j := 0, ph := .pNext } := rfl
@[simp] theorem State.nextSweep_flags (s : State) : (s.nextSweep).block.flags = s.block.flags := rfl
@[simp] theorem State.nextSweep_res (s : State) : (s.nextSweep).block.res = s.block.res := rfl
@[simp] theorem State.nextSweep_cfg (s : State) : (s.nextSweep).block.cfg = s.block.cfg := rfl
@[simp] theorem State.nextSweep_world (s : State) : (s.nextSweep).world = s.world := rfl

@[simp] theorem State.latchResult_desc (P : Params) (s : State) : (s.latchResult P).block.desc = s.block.desc := rfl
@[simp] theorem State.latchResult_latch (P : Params) (s : State) : (s.latchResult P).block.latch = s.block.latch := rfl
@[simp] theorem State.latchResult_seq (P : Params) (s : State) : (s.latchResult P).block.seq = s.block.seq := rfl
@[simp] theorem State.latchResult_flags (P : Params) (s : State) : (s.latchResult P).block.flags = s.block.flags := rfl
@[simp] theorem State.latchResult_res (P : Params) (s : State) : (s.latchResult P).block.res = 
    if s.block.res.lastRead = P.nackCode then { s.block.res with present := false, value := 0 }
    else { s.block.res with present := true, value := s.block.desc.buf0 } := rfl
@[simp] theorem State.latchResult_cfg (P : Params) (s : State) : (s.latchResult P).block.cfg = s.block.cfg := rfl
@[simp] theorem State.latchResult_world (P : Params) (s : State) : (s.latchResult P).world = s.world := rfl

/-! ## Host accesses (R37, R42, R65) -/

@[simp] theorem State.overrun_desc (s : State) : (s.overrun).block.desc = s.block.desc := rfl
@[simp] theorem State.overrun_latch (s : State) : (s.overrun).block.latch = s.block.latch := rfl
@[simp] theorem State.overrun_seq (s : State) : (s.overrun).block.seq = s.block.seq := rfl
@[simp] theorem State.overrun_flags (s : State) : (s.overrun).block.flags = s.block.flags.overran := rfl
@[simp] theorem State.overrun_res (s : State) : (s.overrun).block.res = s.block.res := rfl
@[simp] theorem State.overrun_cfg (s : State) : (s.overrun).block.cfg = s.block.cfg := rfl
@[simp] theorem State.overrun_world (s : State) : (s.overrun).world = s.world := rfl

@[simp] theorem State.returnRead_block (off : Nat) (v : Word) (s : State) : (s.returnRead off v).block = s.block := rfl
@[simp] theorem State.returnRead_world (off : Nat) (v : Word) (s : State) : (s.returnRead off v).world = 
    { s.world with reads := s.world.reads ++ [(off, v)] } := rfl
@[simp] theorem State.withTurns_block (turns : List HostTurn) (s : State) : (s.withTurns turns).block = s.block := rfl
@[simp] theorem State.withTurns_world (turns : List HostTurn) (s : State) : (s.withTurns turns).world = { s.world with host := turns } := rfl

/-! ## The record of port events (R10) -/

@[simp] theorem World.record_host (e : PortEvent) (w : World) : (w.record e).host = w.host := rfl
@[simp] theorem World.record_writeAnswers (e : PortEvent) (w : World) : (w.record e).writeAnswers = w.writeAnswers := rfl
@[simp] theorem World.record_readAnswers (e : PortEvent) (w : World) : (w.record e).readAnswers = w.readAnswers := rfl
@[simp] theorem World.record_pinAnswers (e : PortEvent) (w : World) : (w.record e).pinAnswers = w.pinAnswers := rfl
@[simp] theorem World.record_oracleDraws (e : PortEvent) (w : World) : (w.record e).oracleDraws = w.oracleDraws := rfl
@[simp] theorem World.record_bus (e : PortEvent) (w : World) : (w.record e).bus = w.bus := rfl
@[simp] theorem World.record_gpio (e : PortEvent) (w : World) : (w.record e).gpio = w.gpio := rfl
@[simp] theorem World.record_delay (e : PortEvent) (w : World) : (w.record e).delay = w.delay := rfl
@[simp] theorem World.record_sink (e : PortEvent) (w : World) : (w.record e).sink = w.sink := rfl
@[simp] theorem World.record_left (e : PortEvent) (w : World) (c : Collaborator) : (w.record e).left c = w.left c := by
  cases c <;> rfl
@[simp] theorem World.record_trace (e : PortEvent) (w : World) : (w.record e).trace = w.trace ++ [e] := rfl
@[simp] theorem World.record_reads (e : PortEvent) (w : World) : (w.record e).reads = w.reads := rfl
@[simp] theorem World.record_readDraws (e : PortEvent) (w : World) : (w.record e).readDraws = w.readDraws := rfl

end Sys2Proof.Machine
end

