-- ==== Sys2Proof/Laws/Ops.lean ====
section
/-! SUPPORT. What each shared operation can do, said once. -/

namespace Sys2Proof.Machine

/-! ## Whether a collaborator answers (R71 to R73, R265, R277) -/

/-- Only a collaborator that has stopped answering does not answer. -/
theorem World.serves_none {c : Collaborator} {w : World} : w.serves c = none ↔ w.left c = some 0 := by
  unfold World.serves; split <;> simp_all

/-- A collaborator that has not stopped answers. -/
theorem World.serves_isSome {c : Collaborator} {w : World} (h : w.left c ≠ some 0) : ∃ v, w.serves c = some v := by
  cases hs : w.serves c with
  | none => exact absurd (World.serves_none.mp hs) h
  | some v => exact ⟨v, rfl⟩

/-- A collaborator that answers every request answers, and the world stays as it is. -/
theorem World.serves_always {c : Collaborator} {w : World} (h : w.left c = none) : w.serves c = some w := by
  simp [World.serves, h]

/-- A collaborator that answers had not stopped, and only how many requests it still answers changes. -/
theorem World.serves_some {c : Collaborator} {w v : World} (h : w.serves c = some v) :
    w.left c ≠ some 0 ∧ v = w.withLeft (v.left c) c := by
  unfold World.serves at h
  split at h
  · rename_i hl
    simp only [Option.some.injEq] at h; subst h
    refine ⟨by simp [hl], ?_⟩
    cases c <;> rfl
  · simp at h
  · rename_i hl
    simp only [Option.some.injEq] at h; subst h
    refine ⟨by simp [hl], ?_⟩
    cases c <;> rfl

/-- What a served request leaves alone. -/
theorem World.serves_frame {c : Collaborator} {w v : World} (h : w.serves c = some v) :
    v.host = w.host ∧ v.writeAnswers = w.writeAnswers ∧ v.readAnswers = w.readAnswers ∧ v.pinAnswers = w.pinAnswers ∧
      v.oracleDraws = w.oracleDraws ∧ v.trace = w.trace ∧ v.reads = w.reads ∧ v.readDraws = w.readDraws := by
  obtain ⟨_, h⟩ := World.serves_some h
  rw [h]
  cases c <;> exact ⟨rfl, rfl, rfl, rfl, rfl, rfl, rfl, rfl⟩

/-! ## An answer changes nothing but its own list or the draw counter -/

@[simp] theorem World.drawWrite_host (w : World) : w.drawWrite.2.host = w.host := by
  unfold World.drawWrite; split <;> rfl
@[simp] theorem World.drawWrite_bus (w : World) : w.drawWrite.2.bus = w.bus := by
  unfold World.drawWrite; split <;> rfl
@[simp] theorem World.drawWrite_gpio (w : World) : w.drawWrite.2.gpio = w.gpio := by
  unfold World.drawWrite; split <;> rfl
@[simp] theorem World.drawWrite_delay (w : World) : w.drawWrite.2.delay = w.delay := by
  unfold World.drawWrite; split <;> rfl
@[simp] theorem World.drawWrite_sink (w : World) : w.drawWrite.2.sink = w.sink := by
  unfold World.drawWrite; split <;> rfl
@[simp] theorem World.drawWrite_trace (w : World) : w.drawWrite.2.trace = w.trace := by
  unfold World.drawWrite; split <;> rfl
@[simp] theorem World.drawWrite_reads (w : World) : w.drawWrite.2.reads = w.reads := by
  unfold World.drawWrite; split <;> rfl
@[simp] theorem World.drawWrite_readDraws (w : World) : w.drawWrite.2.readDraws = w.readDraws := by
  unfold World.drawWrite; split <;> rfl
@[simp] theorem World.drawWrite_readAnswers (w : World) : w.drawWrite.2.readAnswers = w.readAnswers := by
  unfold World.drawWrite; split <;> rfl
@[simp] theorem World.drawWrite_pinAnswers (w : World) : w.drawWrite.2.pinAnswers = w.pinAnswers := by
  unfold World.drawWrite; split <;> rfl

@[simp] theorem World.drawRead_host (w : World) : w.drawRead.2.host = w.host := by
  unfold World.drawRead; split <;> rfl
@[simp] theorem World.drawRead_bus (w : World) : w.drawRead.2.bus = w.bus := by
  unfold World.drawRead; split <;> rfl
@[simp] theorem World.drawRead_gpio (w : World) : w.drawRead.2.gpio = w.gpio := by
  unfold World.drawRead; split <;> rfl
@[simp] theorem World.drawRead_delay (w : World) : w.drawRead.2.delay = w.delay := by
  unfold World.drawRead; split <;> rfl
@[simp] theorem World.drawRead_sink (w : World) : w.drawRead.2.sink = w.sink := by
  unfold World.drawRead; split <;> rfl
@[simp] theorem World.drawRead_trace (w : World) : w.drawRead.2.trace = w.trace := by
  unfold World.drawRead; split <;> rfl
@[simp] theorem World.drawRead_reads (w : World) : w.drawRead.2.reads = w.reads := by
  unfold World.drawRead; split <;> rfl
@[simp] theorem World.drawRead_readDraws (w : World) : w.drawRead.2.readDraws = w.readDraws := by
  unfold World.drawRead; split <;> rfl
@[simp] theorem World.drawRead_writeAnswers (w : World) : w.drawRead.2.writeAnswers = w.writeAnswers := by
  unfold World.drawRead; split <;> rfl
@[simp] theorem World.drawRead_pinAnswers (w : World) : w.drawRead.2.pinAnswers = w.pinAnswers := by
  unfold World.drawRead; split <;> rfl

@[simp] theorem World.drawPin_host (w : World) : w.drawPin.2.host = w.host := by
  unfold World.drawPin; split <;> rfl
@[simp] theorem World.drawPin_bus (w : World) : w.drawPin.2.bus = w.bus := by
  unfold World.drawPin; split <;> rfl
@[simp] theorem World.drawPin_gpio (w : World) : w.drawPin.2.gpio = w.gpio := by
  unfold World.drawPin; split <;> rfl
@[simp] theorem World.drawPin_delay (w : World) : w.drawPin.2.delay = w.delay := by
  unfold World.drawPin; split <;> rfl
@[simp] theorem World.drawPin_sink (w : World) : w.drawPin.2.sink = w.sink := by
  unfold World.drawPin; split <;> rfl
@[simp] theorem World.drawPin_trace (w : World) : w.drawPin.2.trace = w.trace := by
  unfold World.drawPin; split <;> rfl
@[simp] theorem World.drawPin_reads (w : World) : w.drawPin.2.reads = w.reads := by
  unfold World.drawPin; split <;> rfl
@[simp] theorem World.drawPin_readDraws (w : World) : w.drawPin.2.readDraws = w.readDraws := by
  unfold World.drawPin; split <;> rfl
@[simp] theorem World.drawPin_writeAnswers (w : World) : w.drawPin.2.writeAnswers = w.writeAnswers := by
  unfold World.drawPin; split <;> rfl
@[simp] theorem World.drawPin_readAnswers (w : World) : w.drawPin.2.readAnswers = w.readAnswers := by
  unfold World.drawPin; split <;> rfl

/-- What an answer to a `BusWrite` leaves alone. -/
theorem World.nextWriteAnswer_frame {w v : World} {st : StatusCode} (h : w.nextWriteAnswer = some (st, v)) :
    v.host = w.host ∧ v.trace = w.trace ∧ v.reads = w.reads ∧ v.readDraws = w.readDraws := by
  obtain ⟨u, hu, ha⟩ := Option.map_eq_some_iff.mp h
  have hv : u.drawWrite.2 = v := congrArg Prod.snd ha
  obtain ⟨h1, -, -, -, -, h2, h3, h4⟩ := World.serves_frame hu
  rw [← hv]; simp [h1, h2, h3, h4]

/-- What an answer to a `BusRead` leaves alone. -/
theorem World.nextReadAnswer_frame {w v : World} {r : ReadAnswer} (h : w.nextReadAnswer = some (r, v)) :
    v.host = w.host ∧ v.trace = w.trace ∧ v.reads = w.reads ∧ v.readDraws = w.readDraws := by
  obtain ⟨u, hu, ha⟩ := Option.map_eq_some_iff.mp h
  have hv : u.drawRead.2 = v := congrArg Prod.snd ha
  obtain ⟨h1, -, -, -, -, h2, h3, h4⟩ := World.serves_frame hu
  rw [← hv]; simp [h1, h2, h3, h4]

/-- What an answer to a `PinDrive` leaves alone. -/
theorem World.nextPinAnswer_frame {w v : World} {r : PinAnswer} (h : w.nextPinAnswer = some (r, v)) :
    v.host = w.host ∧ v.trace = w.trace ∧ v.reads = w.reads ∧ v.readDraws = w.readDraws := by
  obtain ⟨u, hu, ha⟩ := Option.map_eq_some_iff.mp h
  have hv : u.drawPin.2 = v := congrArg Prod.snd ha
  obtain ⟨h1, -, -, -, -, h2, h3, h4⟩ := World.serves_frame hu
  rw [← hv]; simp [h1, h2, h3, h4]

/-- A listed answer is the next one, where the bus answers. -/
theorem World.nextWriteAnswer_listed {w v : World} (h : w.serves .bus = some v) (st : StatusCode) (rest : List StatusCode) :
    ({ w with writeAnswers := st :: rest } : World).nextWriteAnswer = some (st, { v with writeAnswers := rest }) := by
  simp only [World.nextWriteAnswer, World.serves, World.left] at *
  rcases hb : w.bus with _ | _ | n <;> simp [hb, World.drawWrite, World.withLeft] at h ⊢ <;> subst h <;> simp [hb]

/-- A listed answer is the next one, where the bus answers. -/
theorem World.nextReadAnswer_listed {w v : World} (h : w.serves .bus = some v) (r : ReadAnswer) (rest : List ReadAnswer) :
    ({ w with readAnswers := r :: rest } : World).nextReadAnswer = some (r, { v with readAnswers := rest }) := by
  simp only [World.nextReadAnswer, World.serves, World.left] at *
  rcases hb : w.bus with _ | _ | n <;> simp [hb, World.drawRead, World.withLeft] at h ⊢ <;> subst h <;> simp [hb]

/-! ## A recorded event changes no answer (R75) -/

theorem World.serves_record (c : Collaborator) (e : PortEvent) (w : World) :
    (w.record e).serves c = (w.serves c).map (World.record e) := by
  simp only [World.serves, World.record_left]
  split <;> simp
  cases c <;> rfl

theorem World.serves_some_record {c : Collaborator} {w v : World} (e : PortEvent) (h : w.serves c = some v) :
    (w.record e).serves c = some (v.record e) := by
  rw [World.serves_record, h]; rfl

theorem World.drawWrite_record (e : PortEvent) (w : World) :
    (w.record e).drawWrite = (w.drawWrite.1, w.drawWrite.2.record e) := by
  simp only [World.drawWrite, World.record_writeAnswers]; split <;> rfl

theorem World.drawRead_record (e : PortEvent) (w : World) :
    (w.record e).drawRead = (w.drawRead.1, w.drawRead.2.record e) := by
  simp only [World.drawRead, World.record_readAnswers]; split <;> rfl

theorem World.drawPin_record (e : PortEvent) (w : World) :
    (w.record e).drawPin = (w.drawPin.1, w.drawPin.2.record e) := by
  simp only [World.drawPin, World.record_pinAnswers]; split <;> rfl

theorem World.nextWriteAnswer_record {w v : World} {st : StatusCode} (e : PortEvent) (h : w.nextWriteAnswer = some (st, v)) :
    (w.record e).nextWriteAnswer = some (st, v.record e) := by
  obtain ⟨u, hu, ha⟩ := Option.map_eq_some_iff.mp h
  simp [World.nextWriteAnswer, World.serves_record, hu, World.drawWrite_record, ha]

theorem World.nextReadAnswer_record {w v : World} {r : ReadAnswer} (e : PortEvent) (h : w.nextReadAnswer = some (r, v)) :
    (w.record e).nextReadAnswer = some (r, v.record e) := by
  obtain ⟨u, hu, ha⟩ := Option.map_eq_some_iff.mp h
  simp [World.nextReadAnswer, World.serves_record, hu, World.drawRead_record, ha]

theorem World.nextPinAnswer_record {w v : World} {r : PinAnswer} (e : PortEvent) (h : w.nextPinAnswer = some (r, v)) :
    (w.record e).nextPinAnswer = some (r, v.record e) := by
  obtain ⟨u, hu, ha⟩ := Option.map_eq_some_iff.mp h
  simp [World.nextPinAnswer, World.serves_record, hu, World.drawPin_record, ha]

/-! ## Waiting for an answer -/

/-- A step with one request waits, or goes on from its answer (R165, R277). -/
theorem State.await_cases {α : Type} (o : Option α) (f : α → State) (next : State → State) (s : State) :
    (o = none ∧ s.await (o.map f) next = .next s) ∨ ∃ a, o = some a ∧ s.await (o.map f) next = .next (next (f a)) := by
  cases o with
  | none => exact .inl ⟨rfl, rfl⟩
  | some a => exact .inr ⟨a, rfl, rfl⟩

/-- A drive step waits, goes on, or raises PinFault, as the pin answers (R139, R277). -/
theorem seqDrive_cases (level : Bool) (next : Phase) (s : State) :
    (s.world.left .gpio = some 0 ∧ seqDrive level next s = .next s) ∨
    ∃ r w, s.world.nextPinAnswer = some (r, w) ∧ seqDrive level next s = .next
      (match r with
        | .ok => (s.afterEvent (pinEvent s.block.latch.pin level .ok) w).toPhase next
        | .fault => (s.afterEvent (pinEvent s.block.latch.pin level .fault) w).raisePinFault level) := by
  cases h : s.world.nextPinAnswer with
  | none => exact .inl ⟨World.serves_none.mp (Option.map_eq_none_iff.mp h), by simp [seqDrive, State.pinDrive, h]⟩
  | some a =>
    obtain ⟨r, w⟩ := a
    refine .inr ⟨r, w, rfl, ?_⟩
    cases r <;> simp [seqDrive, State.pinDrive, h]

/-! ## Taking a command -/

theorem State.takeCommand_idle (load : Block → Block) {s : State} (h : s.block.flags.busy = false) :
    s.takeCommand load = { s with block := load { s.block with flags := s.block.flags.accepted } } := by
  simp [State.takeCommand, h]

theorem State.takeCommand_busy (load : Block → Block) {s : State} (h : s.block.flags.busy = true) :
    s.takeCommand load = s.overrun := by
  simp [State.takeCommand, h]

/-- Taking a command changes nothing outside the block (R110: no port request is issued). -/
@[simp] theorem State.takeCommand_world (load : Block → Block) (s : State) : (s.takeCommand load).world = s.world := by
  unfold State.takeCommand; split <;> rfl

@[simp] theorem State.takeIllegal_world (s : State) : s.takeIllegal.world = s.world := by
  unfold State.takeIllegal; split <;> rfl

/-- What a command loads at acceptance (R110). -/
def loadOf : Instr → Block → Block
  | .scan bus => Block.loadScan bus
  | .devrst pin lowMs highMs => Block.loadDevrst pin lowMs highMs
  | .rdreg bus addr reg => Block.loadRdreg bus addr reg
  | .probe => Block.loadProbe

/-- Executing an instruction is taking its command. -/
theorem exec_eq (i : Instr) (s : State) : exec i s = .next (s.takeCommand (loadOf i)) := by
  cases i <;> rfl

/-! ## The register read's operands -/

/-- The pair is loaded from the two lists, and nothing but the latches changes (R213). -/
theorem Block.loadPair_some {b c : Block} (h : b.loadPair = some c) :
    ∃ addr reg, b.cfg.addrs[b.seq.i.toNat]? = some addr ∧ b.cfg.regs[b.seq.j.toNat]? = some reg ∧
      c = { b with latch := { b.latch with addr := addr, reg := reg } } := by
  unfold Block.loadPair at h
  split at h
  · rename_i addr reg ha hr
    exact ⟨addr, reg, ha, hr, by simpa using h.symm⟩
  · simp at h

/-- An index below 16 finds its pair (R29, R30). -/
theorem Block.loadPair_isSome {b : Block} (hi : b.seq.i.toNat < 16) (hj : b.seq.j.toNat < 16) : ∃ c, b.loadPair = some c := by
  unfold Block.loadPair
  simp [Vector.getElem?_eq_getElem hi, Vector.getElem?_eq_getElem hj]

/-! ## Host accesses -/

/-- A host read changes nothing but what the host has read and the draw counter (R64). -/
theorem hostRead_spec (off : Nat) (s : State) :
    ∃ v n, hostRead off s = { s with world := { s.world with reads := s.world.reads ++ [(off, v)], readDraws := n } } := by
  have latch : ∀ v, ∃ v' n, s.readLatch off v =
      { s with world := { s.world with reads := s.world.reads ++ [(off, v')], readDraws := n } } := by
    intro v
    unfold State.readLatch
    split
    · exact ⟨_, _, rfl⟩
    · exact ⟨_, _, rfl⟩
  unfold hostRead
  split
  any_goals exact latch _
  all_goals exact ⟨_, _, rfl⟩

/-- A host write is a command, a configuration write, or nothing (R64). -/
theorem hostWrite_cases (P : Params) (off : Nat) (v : Word) (s : State) :
    (hostRegAt off = some .cmd ∧ hostWrite P off v s = writeCmd v s) ∨
    (∃ c, hostRegAt off = some (.cfg c) ∧ hostWrite P off v s = .next (writeCfg P c v s)) ∨
    hostWrite P off v s = .next s := by
  unfold hostWrite
  split <;> simp_all

/-- A write to `CMD` is an instruction or an illegal word (R41). -/
theorem writeCmd_cases (w : Word) (s : State) :
    (∃ i, decodeWord w = .ok i ∧ writeCmd w s = exec i s) ∨
    (∃ e, decodeWord w = .error e ∧ writeCmd w s = .next s.takeIllegal) := by
  unfold writeCmd
  split
  · exact .inl ⟨_, by assumption, rfl⟩
  · exact .inr ⟨_, by assumption, rfl⟩

/-- Every register is found at its offset (R40). -/
theorem hostRegAt_offset (r : HostReg) : hostRegAt r.offset = some r := by
  cases r with
  | cfg c =>
    cases c with
    | addr i => revert i; decide
    | reg j => revert j; decide
    | _ => decide
  | _ => decide

/-- A list length is stored as `min(v[4:0], 16)` (R51, R52). -/
theorem clampLength_toNat (P : Params) (v : Word) : (clampLength P v).toNat = min (v.toNat % 32) 16 := by
  have h : min (v.toNat % 32) 16 < 32 := by omega
  simp [clampLength, Nat.mod_eq_of_lt h]

/-- A list length is stored as at most 16 (R51, R52). -/
theorem clampLength_le (P : Params) (v : Word) : (clampLength P v).toNat ≤ 16 := by
  rw [clampLength_toNat]; omega

end Sys2Proof.Machine
end

