-- ==== Sys2Proof/Laws/PerInstr.lean ====
section
/-! SUPPORT. Facts about every instruction, one lemma per constructor. -/

/-- The word of a command is a word of its row of R107's table. -/
def Sys2Proof.Laws.EncodeMatchesRow.Statement (i : Sys2Proof.Instr) : Prop :=
  i.row.matchesWord (Sys2Proof.encode i) = true

namespace Sys2Proof

/-- A word with opcode 2 is a word of DEVRST's row (R107). -/
theorem devrstRow_matches {w : Word} (h : field w 31 28 = 0x2#4) : devrstRow.matchesWord w = true := by
  simp only [EncodingRow.matchesWord, devrstRow, beq_iff_eq, mask_eq_iff]
  rw [field_eq_iff] at h
  intro i hi
  by_cases hb : i < 28
  · interval_cases i <;> simp
  · have := h (i - 28) (by omega); interval_cases i <;> simpa using this

/-- A word with opcode 1 and zeros in `w[27:8]` is a word of SCAN's row (R107). -/
theorem scanRow_matches {w : Word} (h1 : field w 31 28 = 0x1#4) (h2 : field w 27 8 = 0#20) :
    scanRow.matchesWord w = true := by
  simp only [EncodingRow.matchesWord, scanRow, beq_iff_eq, mask_eq_iff]
  rw [field_eq_iff] at h1 h2
  intro i hi
  by_cases ha : i < 8
  · interval_cases i <;> simp
  by_cases hb : i < 28
  · have := h2 (i - 8) (by omega); interval_cases i <;> simpa using this
  · have := h1 (i - 28) (by omega); interval_cases i <;> simpa using this

/-- A word with opcode 3 and zeros in `w[27:24]` and `w[15]` is a word of RDREG's row (R107). -/
theorem rdregRow_matches {w : Word} (h1 : field w 31 28 = 0x3#4) (h2 : field w 27 24 = 0#4)
    (h3 : field w 15 15 = 0#1) : rdregRow.matchesWord w = true := by
  simp only [EncodingRow.matchesWord, rdregRow, beq_iff_eq, mask_eq_iff]
  rw [field_eq_iff] at h1 h2 h3
  intro i hi
  by_cases ha : i < 15
  · interval_cases i <;> simp
  by_cases hb : i = 15
  · have := h3 0 (by omega); subst hb; simpa using this
  by_cases hc : i < 24
  · have : 16 ≤ i := by omega
    interval_cases i <;> simp
  by_cases hd : i < 28
  · have := h2 (i - 24) (by omega); interval_cases i <;> simpa using this
  · have := h1 (i - 28) (by omega); interval_cases i <;> simpa using this

end Sys2Proof

open Sys2Proof

theorem Sys2Proof.Laws.EncodeMatchesRow.scan (bus : Byte) : Statement (.scan bus) := by
  have h := encode_scan_toNat bus
  have hb := bus.isLt
  exact scanRow_matches (field_eq (by simp; omega)) (field_eq (by simp; omega))

theorem Sys2Proof.Laws.EncodeMatchesRow.devrst (pin : Byte) (lowMs highMs : Millis) :
    Statement (.devrst pin lowMs highMs) := by
  have h := encode_devrst_toNat pin lowMs highMs
  have hp := pin.isLt
  have hl := lowMs.isLt
  have hh := highMs.isLt
  exact devrstRow_matches (field_eq (by simp; omega))

theorem Sys2Proof.Laws.EncodeMatchesRow.rdreg (bus : Byte) (addr : DevAddr) (reg : Byte) :
    Statement (.rdreg bus addr reg) := by
  have h := encode_rdreg_toNat bus addr reg
  have hb := bus.isLt
  have ha := addr.isLt
  have hr := reg.isLt
  exact rdregRow_matches (field_eq (by simp; omega)) (field_eq (by simp; omega)) (field_eq (by simp; omega))

theorem Sys2Proof.Laws.EncodeMatchesRow.probe : Statement .probe := by
  show probeRow.matchesWord (encode .probe) = true
  decide
end

