-- ==== Sys2Proof/Laws/Sequencer.lean ====
section
/-! SUPPORT. The rows of the transition tables R166, R181, R200 and R217, the wait for a missing response (R277), and the
inversion of the sequencer's step into them. A proof about a sequencer step cites `seqStep_next` and splits the rows instead
of unfolding the step. -/

namespace Sys2Proof.Machine

/-- The state after the probe of address `A` has been answered with `st` (R162, R163). -/
def probed (P : Params) (s : State) (st : StatusCode) (w : World) : State :=
  State.afterWrite P true st w { s with block := s.block.populateProbe }

/-- The state after the write phase of a register read has been answered with `st` (R192, R193). -/
def wrote (P : Params) (s : State) (st : StatusCode) (w : World) : State :=
  State.afterWrite P false st w { s with block := s.block.populateWrite }

/-- The state after the read phase of a register read has been answered with `r`, its result latched (R195 to R197). -/
def gotRead (P : Params) (s : State) (r : ReadAnswer) (w : World) : State :=
  (State.afterRead P true r w { s with block := s.block.populateRead P }).latchResult P

/-- The state after a drive has been answered with `r` (R138). -/
def drove (s : State) (level : Bool) (r : PinAnswer) (w : World) : State :=
  s.afterEvent (pinEvent s.block.latch.pin level r) w

/-- One row of the transition tables: the phase, the operation, the condition, and the state it leads to; or the wait of a
phase whose collaborator does not answer. -/
inductive SeqRow (P : Params) (s : State) : Phase → Opc → State → Prop where
  | waits : SeqRow P s .idle .idle s
  | hit (st w) : s.block.seq.a.toNat ≤ 127 → s.world.nextWriteAnswer = some (st, w) → st ≠ P.nackCode →
      SeqRow P s .sProbe .scan ((probed P s st w).toPhase .sHit)
  | miss (st w) : s.block.seq.a.toNat ≤ 127 → s.world.nextWriteAnswer = some (st, w) → st = P.nackCode →
      SeqRow P s .sProbe .scan ((probed P s st w).scanAdvance P)
  | hitReported (w) : s.block.seq.a.toNat ≤ 127 → s.world.sinkTakes = some w →
      SeqRow P s .sHit .scan
        ((s.afterEvent (.rp (.scanHit s.block.seq.scanAddr s.block.res.lastWrite)) w).scanAdvance P)
  | scanFlushed (w) : s.world.sinkTakes = some w → SeqRow P s .sFlush .scan (s.afterEvent (.rp .flush) w).complete
  | drive (level ph next opc w) : opc = .devrst ∨ opc = .probe →
      (level = false ∧ ph = .dLow ∧ next = .dWaitLow) ∨ (level = true ∧ ph = .dHigh ∧ next = .dWaitHigh) →
      s.world.nextPinAnswer = some (.ok, w) → SeqRow P s ph opc ((drove s level .ok w).toPhase next)
  | pinFault (level ph opc w) : opc = .devrst ∨ opc = .probe →
      (level = false ∧ ph = .dLow) ∨ (level = true ∧ ph = .dHigh) →
      s.world.nextPinAnswer = some (.fault, w) → SeqRow P s ph opc ((drove s level .fault w).raisePinFault level)
  | waitedLow (opc w) : opc = .devrst ∨ opc = .probe → s.world.serves .delay = some w →
      SeqRow P s .dWaitLow opc ((s.afterEvent (.dl s.block.latch.low) w).toPhase .dHigh)
  | resetDone (w) : s.world.serves .delay = some w →
      SeqRow P s .dWaitHigh .devrst (s.afterEvent (.dl s.block.latch.high) w).complete
  | toSweeps (w) : s.world.serves .delay = some w →
      SeqRow P s .dWaitHigh .probe ((s.afterEvent (.dl s.block.latch.high) w).toPhase .pNext)
  | written (opc st w) : opc = .rdreg ∨ opc = .probe → s.world.nextWriteAnswer = some (st, w) →
      SeqRow P s .gWrite opc ((wrote P s st w).toPhase .gRead)
  | readDone (r w) : s.world.nextReadAnswer = some (r, w) → SeqRow P s .gRead .rdreg (gotRead P s r w).complete
  | absent (r w) : s.world.nextReadAnswer = some (r, w) → r.status = P.nackCode →
      SeqRow P s .gRead .probe (gotRead P s r w).probeAdvance
  | present (r w) : s.world.nextReadAnswer = some (r, w) → r.status ≠ P.nackCode →
      SeqRow P s .gRead .probe ((gotRead P s r w).toPhase .pValue)
  | probeDone : s.block.seq.k = s.block.cfg.repeatCount → SeqRow P s .pNext .probe s.complete
  | sweepEnds : s.block.seq.k ≠ s.block.cfg.repeatCount → s.block.seq.i = s.block.cfg.naddr →
      SeqRow P s .pNext .probe (s.toPhase .pMark)
  | rowEnds : s.block.seq.k ≠ s.block.cfg.repeatCount → s.block.seq.i ≠ s.block.cfg.naddr →
      s.block.seq.j = s.block.cfg.nreg →
      SeqRow P s .pNext .probe
        { s with block := { s.block with seq := { s.block.seq with i := s.block.seq.i + 1, j := 0, ph := .pNext } } }
  | nextPair (b) : s.block.seq.k ≠ s.block.cfg.repeatCount → s.block.seq.i ≠ s.block.cfg.naddr →
      s.block.seq.j ≠ s.block.cfg.nreg → s.block.loadPair = some b →
      SeqRow P s .pNext .probe (State.toPhase .gWrite { s with block := b })
  | valueReported (w) : s.world.sinkTakes = some w →
      SeqRow P s .pValue .probe
        (s.afterEvent (.rp (.regValue s.block.latch.addr s.block.latch.reg s.block.res.value)) w).probeAdvance
  | marked (w) : s.world.sinkTakes = some w →
      SeqRow P s .pMark .probe ((s.afterEvent (.rp .sweepDone) w).toPhase .pFlush)
  | flushed (w) : s.world.sinkTakes = some w → SeqRow P s .pFlush .probe (s.afterEvent (.rp .flush) w).nextSweep
  | unanswered (ph opc c) : ph = s.block.seq.ph → ph.usedBy opc = true → ph.collaborator = some c →
      s.world.left c = some 0 → SeqRow P s ph opc { s with block := s.block.requesting P }

@[simp] theorem Block.requesting_latch (P : Params) (b : Block) : (b.requesting P).latch = b.latch := by
  unfold Block.requesting; split <;> rfl
@[simp] theorem Block.requesting_seq (P : Params) (b : Block) : (b.requesting P).seq = b.seq := by
  unfold Block.requesting; split <;> rfl
@[simp] theorem Block.requesting_flags (P : Params) (b : Block) : (b.requesting P).flags = b.flags := by
  unfold Block.requesting; split <;> rfl
@[simp] theorem Block.requesting_res (P : Params) (b : Block) : (b.requesting P).res = b.res := by
  unfold Block.requesting; split <;> rfl
@[simp] theorem Block.requesting_cfg (P : Params) (b : Block) : (b.requesting P).cfg = b.cfg := by
  unfold Block.requesting; split <;> rfl

/-- Waiting once more changes nothing. -/
theorem Block.requesting_requesting (P : Params) (b : Block) : (b.requesting P).requesting P = b.requesting P := by
  cases h : b.seq.ph <;> simp [Block.requesting, h]

/-- Where a phase is not on the bus, waiting changes nothing. -/
theorem Block.requesting_eq {P : Params} {b : Block} (h : b.seq.ph.collaborator ≠ some .bus) : b.requesting P = b := by
  unfold Block.requesting
  split <;> simp_all [Phase.collaborator]

/-- A step with one request, started in `s₀` and waiting in `s`: the collaborator is silent and it waits, or it is answered
and goes on. -/
theorem State.await_next {α : Type} {c : Collaborator} {w : World} {o : Option α} {f : α → State} {next : State → State}
    {s t : State} (ho : o = none → w.left c = some 0) (h : s.await (o.map f) next = .next t) :
    (w.left c = some 0 ∧ t = s) ∨ ∃ a, o = some a ∧ t = next (f a) := by
  rcases State.await_cases o f next s with ⟨h0, h1⟩ | ⟨a, h0, h1⟩
  · rw [h1] at h; exact .inl ⟨ho h0, by simpa using h.symm⟩
  · rw [h1] at h; exact .inr ⟨a, h0, by simpa using h.symm⟩

/-- A reporting step waits or is its row. -/
theorem reportThen_next {r : Record} {next : State → State} {s t : State} (h : s.reportThen r next = .next t) :
    (s.world.left .sink = some 0 ∧ t = s) ∨ ∃ w, s.world.sinkTakes = some w ∧ t = next (s.afterEvent (.rp r) w) :=
  State.await_next World.serves_none.mp h

/-- A delay step waits or is its row. -/
theorem delayThen_next {d : Millis} {next : State → State} {s t : State} (h : s.delayThen d next = .next t) :
    (s.world.left .delay = some 0 ∧ t = s) ∨ ∃ w, s.world.serves .delay = some w ∧ t = next (s.afterEvent (.dl d) w) :=
  State.await_next World.serves_none.mp h

/-- A bus write waits or is answered. -/
theorem busWrite_next {P : Params} {stop : Bool} {next : State → State} {s t : State}
    (h : s.await (s.busWrite P stop) next = .next t) :
    (s.world.left .bus = some 0 ∧ t = s) ∨
    ∃ st w, s.world.nextWriteAnswer = some (st, w) ∧ t = next (s.afterWrite P stop st w) := by
  rcases State.await_next (c := .bus) (fun h => World.serves_none.mp (Option.map_eq_none_iff.mp h)) h with h | ⟨a, h0, h1⟩
  · exact .inl h
  · exact .inr ⟨a.1, a.2, h0, h1⟩

/-- A bus read waits or is answered. -/
theorem busRead_next {P : Params} {stop : Bool} {next : State → State} {s t : State}
    (h : s.await (s.busRead P stop) next = .next t) :
    (s.world.left .bus = some 0 ∧ t = s) ∨
    ∃ r w, s.world.nextReadAnswer = some (r, w) ∧ t = next (s.afterRead P stop r w) := by
  rcases State.await_next (c := .bus) (fun h => World.serves_none.mp (Option.map_eq_none_iff.mp h)) h with h | ⟨a, h0, h1⟩
  · exact .inl h
  · exact .inr ⟨a.1, a.2, h0, h1⟩

/-- A drive step waits, is its row, or raises PinFault. -/
theorem seqDrive_next {level : Bool} {next : Phase} {s t : State} (h : seqDrive level next s = .next t) :
    (s.world.left .gpio = some 0 ∧ t = s) ∨
    (∃ w, s.world.nextPinAnswer = some (.ok, w) ∧ t = (drove s level .ok w).toPhase next) ∨
    ∃ w, s.world.nextPinAnswer = some (.fault, w) ∧ t = (drove s level .fault w).raisePinFault level := by
  rcases seqDrive_cases level next s with ⟨h0, h1⟩ | ⟨r, w, h0, h1⟩ <;> rw [h1] at h
  · exact .inl ⟨h0, by simpa using h.symm⟩
  · cases r
    · exact .inr (.inl ⟨w, h0, by simpa [drove] using h.symm⟩)
    · exact .inr (.inr ⟨w, h0, by simpa [drove] using h.symm⟩)

/-- Whatever the status, the read phase follows the write phase (R194). -/
@[simp] theorem phaseAfterWrite_eq (p : WriteStatusPolicy) : phaseAfterWrite p = .gRead := by cases p; rfl

/-- The wait of a phase that is not on the bus. -/
theorem SeqRow.stalls {P : Params} {s : State} {ph : Phase} {opc : Opc} (c : Collaborator) (hp : s.block.seq.ph = ph)
    (hu : ph.usedBy opc = true) (hc : ph.collaborator = some c) (hb : c ≠ .bus) (hl : s.world.left c = some 0) :
    SeqRow P s ph opc s := by
  have h := SeqRow.unanswered (P := P) ph opc c hp.symm hu hc hl
  rwa [Block.requesting_eq (by rw [hp, hc]; simpa using hb)] at h

/-- What a phase's step does, if it answers a next state: one of its rows. -/
theorem phaseStep_next {P : Params} {s t : State} {ph : Phase} {opc : Opc} (hu : ph.usedBy opc = true)
    (hp : s.block.seq.ph = ph) (ho : s.block.seq.opc = opc) (h : phaseStep P s ph = .next t) : SeqRow P s ph opc t := by
  cases ph with
  | idle =>
    cases opc <;> simp [Phase.usedBy] at hu
    simp only [phaseStep, Host.Outcome.next.injEq] at h; subst h; exact .waits
  | sProbe =>
    cases opc <;> simp [Phase.usedBy] at hu
    simp only [phaseStep, seqScanProbe, Params.numAddr_val] at h
    split at h
    · simp at h
    · rename_i ha
      rcases busWrite_next h with ⟨h0, rfl⟩ | ⟨st, w, h0, rfl⟩
      · have hr := SeqRow.unanswered (P := P) _ .scan _ hp.symm rfl rfl h0
        rwa [Block.requesting, hp] at hr
      · split
        · exact .miss st w (by omega) h0 (by assumption)
        · exact .hit st w (by omega) h0 (by assumption)
  | sHit =>
    cases opc <;> simp [Phase.usedBy] at hu
    simp only [phaseStep, seqScanHit, Params.numAddr_val] at h
    split at h
    · simp at h
    · rcases reportThen_next h with ⟨h0, rfl⟩ | ⟨w, h0, rfl⟩
      · exact .stalls _ hp rfl rfl (by simp) h0
      · exact .hitReported w (by omega) h0
  | sFlush =>
    cases opc <;> simp [Phase.usedBy] at hu
    rcases reportThen_next h with ⟨h0, rfl⟩ | ⟨w, h0, rfl⟩
    · exact .stalls _ hp rfl rfl (by simp) h0
    · exact .scanFlushed w h0
  | dLow =>
    have hopc : opc = .devrst ∨ opc = .probe := by cases opc <;> simp_all [Phase.usedBy]
    rcases seqDrive_next h with ⟨h0, rfl⟩ | ⟨w, h0, rfl⟩ | ⟨w, h0, rfl⟩
    · exact .stalls _ hp hu rfl (by simp) h0
    · exact .drive _ _ _ _ w hopc (.inl ⟨rfl, rfl, rfl⟩) h0
    · exact .pinFault _ _ _ w hopc (.inl ⟨rfl, rfl⟩) h0
  | dWaitLow =>
    have hopc : opc = .devrst ∨ opc = .probe := by cases opc <;> simp_all [Phase.usedBy]
    rcases delayThen_next h with ⟨h0, rfl⟩ | ⟨w, h0, rfl⟩
    · exact .stalls _ hp hu rfl (by simp) h0
    · exact .waitedLow _ w hopc h0
  | dHigh =>
    have hopc : opc = .devrst ∨ opc = .probe := by cases opc <;> simp_all [Phase.usedBy]
    rcases seqDrive_next h with ⟨h0, rfl⟩ | ⟨w, h0, rfl⟩ | ⟨w, h0, rfl⟩
    · exact .stalls _ hp hu rfl (by simp) h0
    · exact .drive _ _ _ _ w hopc (.inr ⟨rfl, rfl, rfl⟩) h0
    · exact .pinFault _ _ _ w hopc (.inr ⟨rfl, rfl⟩) h0
  | dWaitHigh =>
    rcases delayThen_next h with ⟨h0, rfl⟩ | ⟨w, h0, rfl⟩
    · exact .stalls _ hp hu rfl (by simp) h0
    · simp only [State.afterEvent_block, ho]
      cases opc <;> simp [Phase.usedBy] at hu
      · exact .resetDone w h0
      · exact .toSweeps w h0
  | gWrite =>
    have hopc : opc = .rdreg ∨ opc = .probe := by cases opc <;> simp_all [Phase.usedBy]
    simp only [phaseStep, seqRegWrite, phaseAfterWrite_eq] at h
    rcases busWrite_next h with ⟨h0, rfl⟩ | ⟨st, w, h0, rfl⟩
    · have hr := SeqRow.unanswered (P := P) _ opc _ hp.symm hu rfl h0
      rwa [Block.requesting, hp] at hr
    · exact .written opc st w hopc h0
  | gRead =>
    simp only [phaseStep, seqRegRead] at h
    rcases busRead_next h with ⟨h0, rfl⟩ | ⟨r, w, h0, rfl⟩
    · have hr := SeqRow.unanswered (P := P) _ opc _ hp.symm hu rfl h0
      rwa [Block.requesting, hp] at hr
    · change SeqRow P s .gRead opc (if s.block.seq.opc = .probe then
          if (gotRead P s r w).block.res.lastRead = P.nackCode then (gotRead P s r w).probeAdvance
          else (gotRead P s r w).toPhase .pValue
        else (gotRead P s r w).complete)
      have hl : (gotRead P s r w).block.res.lastRead = r.status := by
        simp only [gotRead, State.latchResult_res]; split <;> rfl
      rw [ho, hl]
      cases opc <;> simp [Phase.usedBy] at hu
      · exact .readDone r w h0
      · rw [if_pos rfl]
        split
        · exact .absent r w h0 (by assumption)
        · exact .present r w h0 (by assumption)
  | pNext =>
    cases opc <;> simp [Phase.usedBy] at hu
    simp only [phaseStep, seqProbeNext] at h
    split at h
    · simp only [Host.Outcome.next.injEq] at h; subst h; exact .probeDone (by assumption)
    split at h
    · simp only [Host.Outcome.next.injEq] at h; subst h; exact .sweepEnds (by assumption) (by assumption)
    split at h
    · simp only [Host.Outcome.next.injEq] at h; subst h
      exact .rowEnds (by assumption) (by assumption) (by assumption)
    split at h
    · simp only [Host.Outcome.next.injEq] at h; subst h
      exact .nextPair _ (by assumption) (by assumption) (by assumption) (by assumption)
    · simp at h
  | pValue =>
    cases opc <;> simp [Phase.usedBy] at hu
    rcases reportThen_next h with ⟨h0, rfl⟩ | ⟨w, h0, rfl⟩
    · exact .stalls _ hp rfl rfl (by simp) h0
    · exact .valueReported w h0
  | pMark =>
    cases opc <;> simp [Phase.usedBy] at hu
    rcases reportThen_next h with ⟨h0, rfl⟩ | ⟨w, h0, rfl⟩
    · exact .stalls _ hp rfl rfl (by simp) h0
    · exact .marked w h0
  | pFlush =>
    cases opc <;> simp [Phase.usedBy] at hu
    rcases reportThen_next h with ⟨h0, rfl⟩ | ⟨w, h0, rfl⟩
    · exact .stalls _ hp rfl rfl (by simp) h0
    · exact .flushed w h0

/-- What a sequencer step does, if it answers a next state: a row of the tables for its phase and operation. -/
theorem seqStep_next {P : Params} {s t : State} (h : seqStep P s = .next t) :
    s.block.seq.ph.usedBy s.block.seq.opc = true ∧ SeqRow P s s.block.seq.ph s.block.seq.opc t := by
  unfold seqStep at h
  split at h
  · rename_i hu; exact ⟨hu, phaseStep_next hu rfl rfl h⟩
  · simp at h

/-- A step with one request is a next state, answered or not. -/
theorem State.await_isNext (o : Option State) (next : State → State) (s : State) : ∃ t, s.await o next = .next t := by
  cases o <;> exact ⟨_, rfl⟩

/-- A drive step is a next state, whatever the pin answers. -/
theorem seqDrive_isNext (level : Bool) (next : Phase) (s : State) : ∃ t, seqDrive level next s = .next t := by
  rcases seqDrive_cases level next s with ⟨_, h⟩ | ⟨_, _, _, h⟩ <;> exact ⟨_, h⟩

/-- A sequencer step stops only where its state is one that R26 to R30 rule out. -/
theorem seqStep_isNext {P : Params} {s : State} (hu : s.block.seq.ph.usedBy s.block.seq.opc = true)
    (ha : s.block.seq.ph = .sProbe ∨ s.block.seq.ph = .sHit → s.block.seq.a.toNat ≤ 127)
    (hij : s.block.seq.ph = .pNext → s.block.seq.k ≠ s.block.cfg.repeatCount → s.block.seq.i ≠ s.block.cfg.naddr →
      s.block.seq.j ≠ s.block.cfg.nreg → s.block.seq.i.toNat < 16 ∧ s.block.seq.j.toNat < 16) :
    ∃ t, seqStep P s = .next t := by
  unfold seqStep
  rw [if_pos hu]
  cases hp : s.block.seq.ph with
  | idle => exact ⟨_, rfl⟩
  | sProbe =>
    have := ha (.inl hp)
    simp only [phaseStep, seqScanProbe, Params.numAddr_val]
    rw [if_neg (by omega)]
    exact State.await_isNext _ _ _
  | sHit =>
    have := ha (.inr hp)
    simp only [phaseStep, seqScanHit, Params.numAddr_val]
    rw [if_neg (by omega)]
    exact State.await_isNext _ _ _
  | sFlush => exact State.await_isNext _ _ _
  | dLow => exact seqDrive_isNext _ _ _
  | dWaitLow => exact State.await_isNext _ _ _
  | dHigh => exact seqDrive_isNext _ _ _
  | dWaitHigh => exact State.await_isNext _ _ _
  | gWrite => exact State.await_isNext _ _ _
  | gRead => exact State.await_isNext _ _ _
  | pNext =>
    simp only [phaseStep, seqProbeNext]
    split
    · exact ⟨_, rfl⟩
    split
    · exact ⟨_, rfl⟩
    split
    · exact ⟨_, rfl⟩
    obtain ⟨hi, hj⟩ := hij hp (by assumption) (by assumption) (by assumption)
    obtain ⟨b, hb⟩ := Block.loadPair_isSome hi hj
    rw [hb]; exact ⟨_, rfl⟩
  | pValue => exact State.await_isNext _ _ _
  | pMark => exact State.await_isNext _ _ _
  | pFlush => exact State.await_isNext _ _ _

/-- A sequencer step is never refused. -/
theorem seqStep_not_refused (P : Params) (s : State) (r : Refusal) : seqStep P s ≠ .refused r := by
  have await : ∀ o next (u : State), u.await o next ≠ .refused r := by
    intro o next u h; obtain ⟨t, ht⟩ := State.await_isNext o next u; simp [ht] at h
  have drive : ∀ level next, seqDrive level next s ≠ .refused r := by
    intro level next h; obtain ⟨t, ht⟩ := seqDrive_isNext level next s; simp [ht] at h
  unfold seqStep
  split
  · cases s.block.seq.ph with
    | idle => simp [phaseStep]
    | sProbe => simp only [phaseStep, seqScanProbe]; split <;> [simp; exact await _ _ _]
    | sHit => simp only [phaseStep, seqScanHit]; split <;> [simp; exact await _ _ _]
    | dLow => exact drive _ _
    | dHigh => exact drive _ _
    | pNext =>
      simp only [phaseStep, seqProbeNext]
      split
      · simp
      split
      · simp
      split
      · simp
      split <;> simp
    | _ => exact await _ _ _
  · simp

end Sys2Proof.Machine
end

