-- ==== Sys2Proof/Laws/Step.lean ====
section
/-! SUPPORT. The inversion of one step of the machine into its turns. -/

namespace Sys2Proof.Machine

/-- What one turn does, if it answers a next state. -/
inductive TurnRow (P : Params) (s : State) : HostTurn → State → Prop where
  | sequencer (t) : seqStep P s = .next t → TurnRow P s .seq t
  | hostRead (off) : TurnRow P s (.read off) (hostRead off s)
  | command (off v i) : hostRegAt off = some .cmd → decodeWord v = .ok i →
      TurnRow P s (.write off v) (s.takeCommand (loadOf i))
  | illegal (off v e) : hostRegAt off = some .cmd → decodeWord v = .error e → TurnRow P s (.write off v) s.takeIllegal
  | configure (off v c) : hostRegAt off = some (.cfg c) → TurnRow P s (.write off v) (writeCfg P c v s)
  | ignored (off v) : TurnRow P s (.write off v) s
  | reset (carriedOut) : TurnRow P s (.reset carriedOut) (blockReset P carriedOut s)

theorem takeTurn_next {P : Params} {turn : HostTurn} {s t : State} (h : takeTurn P turn s = .next t) : TurnRow P s turn t := by
  cases turn with
  | seq => exact .sequencer t h
  | read off =>
    have ht : hostRead off s = t := by simpa [takeTurn] using h
    exact ht ▸ .hostRead off
  | write off v =>
    have h' : hostWrite P off v s = .next t := h
    rcases hostWrite_cases P off v s with ⟨hr, he⟩ | ⟨c, hr, he⟩ | he
    · rw [he] at h'
      rcases writeCmd_cases v s with ⟨i, hd, hw⟩ | ⟨e, hd, hw⟩
      · rw [hw, exec_eq] at h'
        have ht : s.takeCommand (loadOf i) = t := by simpa using h'
        exact ht ▸ .command off v i hr hd
      · rw [hw] at h'
        have ht : s.takeIllegal = t := by simpa using h'
        exact ht ▸ .illegal off v e hr hd
    · rw [he] at h'
      have ht : writeCfg P c v s = t := by simpa using h'
      exact ht ▸ .configure off v c hr
    · rw [he] at h'
      have ht : s = t := by simpa using h'
      exact ht ▸ .ignored off v
  | reset carriedOut =>
    have ht : blockReset P carriedOut s = t := by simpa [takeTurn] using h
    exact ht ▸ .reset carriedOut

/-- A step takes the first turn listed, or the sequencer's when none is listed. -/
theorem stepWith_eq (P : Params) (s : State) :
    (s.world.host = [] ∧ stepWith P s = takeTurn P .seq s) ∨
    ∃ turn rest, s.world.host = turn :: rest ∧ stepWith P s = takeTurn P turn (s.withTurns rest) := by
  unfold stepWith
  cases h : s.world.host with
  | nil => exact .inl ⟨rfl, rfl⟩
  | cons turn rest => exact .inr ⟨turn, rest, rfl, rfl⟩

/-- A step of a machine whose host is silent is the sequencer's. -/
theorem step_silent {s : State} (h : s.world.host = []) : step s = seqStep Config.params s := by
  simp [step, stepWith, h, takeTurn]

/-- A step of a machine whose host has a turn is that turn. -/
theorem step_turn {s : State} {turn : HostTurn} {rest : List HostTurn} (h : s.world.host = turn :: rest) :
    step s = takeTurn Config.params turn (s.withTurns rest) := by
  simp [step, stepWith, h]

/-- The inversion of a step: the turn, the state it starts from, and its row. -/
theorem step_next {s t : State} (h : step s = .next t) :
    ∃ turn s₀, TurnRow Config.params s₀ turn t ∧
      ((s.world.host = [] ∧ turn = .seq ∧ s₀ = s) ∨ ∃ rest, s.world.host = turn :: rest ∧ s₀ = s.withTurns rest) := by
  rcases stepWith_eq Config.params s with ⟨h0, h1⟩ | ⟨turn, rest, h0, h1⟩
  · exact ⟨.seq, s, takeTurn_next (h1 ▸ h), .inl ⟨h0, rfl, rfl⟩⟩
  · exact ⟨turn, _, takeTurn_next (h1 ▸ h), .inr ⟨rest, h0, rfl⟩⟩

end Sys2Proof.Machine
end

