-- ==== Sys2Proof/Tests/Slice0.lean ====
section
/-! SUPPORT. Tests of single steps and words, with their expected results from spec/95_test_vectors.md or worked out by
hand from the cited rules; and for every obligation with hypotheses a witness: a concrete state and operands that meet
them, clause by clause. -/

namespace Sys2Proof.Tests

open Sys2Proof.Machine

/-! ## Helpers -/

/-- The reference parameters, `NACK_CODE` at the 4 of the vectors' `CFG_REF`. -/
def refParams : Params :=
  { widths := .spec, numAddr := 128, listMax := 16, nackCode := 4, timeoutUnits := 1000, timeoutUnit := 1, placeholder := 0
    refSettleLowMs := 20, refSettleHighMs := 400, refRepeat := 20, writeStatusPolicy := .ignore
    widths_eq := rfl, numAddr_eq := rfl, listMax_eq := rfl, nackCode_ne_zero := by decide, timeoutUnit_pos := by decide }

/-- The reset block. -/
def resetBlock : Block := Block.reset refParams

/-- The next state, if there is one. -/
def next? : StepResult → Option State
  | .next t => some t
  | .fault _ => none
  | .refused _ => none

/-- Whether the step stopped with the fault for a state no run reaches. -/
def strays : StepResult → Bool
  | .next _ => false
  | .fault _ => true
  | .refused _ => false

/-- The reset machine in the middle of an operation. -/
def during (opc : Opc) (ph : Phase) : State :=
  { State.reset with block := { resetBlock with
      seq := { resetBlock.seq with opc := opc, ph := ph }
      flags := { resetBlock.flags with busy := true } } }

/-- A scan about to probe address `a`. -/
def scanning (a : BitVec 8) (ph : Phase) : State :=
  { during .scan ph with block := { (during .scan ph).block with
      seq := { (during .scan ph).block.seq with a := a } } }

/-- A PROBE of the full matrix at repetition `k` of 20, position (`i`, `j`). -/
def probing (ph : Phase) (k : BitVec 16) (i j : BitVec 5) : State :=
  { during .probe ph with block := { (during .probe ph).block with
      seq := { (during .probe ph).block.seq with k := k, i := i, j := j }
      latch := { (during .probe ph).block.latch with low := 20, high := 400 }
      cfg := { resetBlock.cfg with naddr := 16, nreg := 16 } } }

/-- With these turns to come. -/
def turns (l : List HostTurn) (s : State) : State := { s with world := { s.world with host := l } }

/-- With these answers of the pin to come. -/
def pins (l : List PinAnswer) (s : State) : State := { s with world := { s.world with pinAnswers := l } }

/-- With these answers to writes to come. -/
def writes (l : List StatusCode) (s : State) : State := { s with world := { s.world with writeAnswers := l } }

/-- With these answers to reads to come. -/
def reads (l : List ReadAnswer) (s : State) : State := { s with world := { s.world with readAnswers := l } }

/-- With a collaborator that answers `n` more requests and then none. -/
def answering (n : Nat) (c : Collaborator) (s : State) : State := { s with world := s.world.withLeft (some n) c }

/-- A read that answered `NACK_CODE` and no byte. -/
def nackRead : ReadAnswer := ⟨4, none, by decide⟩

/-- A read that answered 0 and a byte. -/
def byteRead (v : Byte) : ReadAnswer := ⟨0, some v, by simp⟩

/-- A decoded word, compared as data. -/
def decoded (w : Word) : Option Instr := (decodeWord w).toOption

/-- The reason a word is illegal, compared as data. -/
def illegal (w : Word) : Option IllegalWord :=
  match decodeWord w with
  | .ok _ => none
  | .error e => some e

/-! ## Well-formedness: one ill-formed term for each check (R115) -/

theorem test_refuses_scan_bus_256 : (AsmLine.scan 256).wellFormed = false := by decide
theorem test_refuses_devrst_pin_256 : (AsmLine.devrst 256 0 0).wellFormed = false := by decide
theorem test_refuses_devrst_low_1024 : (AsmLine.devrst 0 1024 0).wellFormed = false := by decide
theorem test_refuses_devrst_high_1024 : (AsmLine.devrst 0 0 1024).wellFormed = false := by decide
theorem test_refuses_rdreg_bus_256 : (AsmLine.rdreg 256 0 0).wellFormed = false := by decide
theorem test_refuses_rdreg_addr_128 : (AsmLine.rdreg 0 128 0).wellFormed = false := by decide
theorem test_refuses_rdreg_reg_256 : (AsmLine.rdreg 0 0 256).wellFormed = false := by decide
theorem test_refused_line_is_an_error : (AsmLine.rdreg 0 128 0).assemble = none := by decide

/-! ## Decoding: words written from R102 to R105, and the vectors of 95_test_vectors.md 2.1 -/

/-- `0001`, twenty zeros, bus 0x81. -/
theorem test_decode_scan : decoded 0b0001_00000000000000000000_10000001 = some (.scan 0x81) := by decide
/-- `0010`, pin 0x81, low_ms 0x201, high_ms 0x3FE. -/
theorem test_decode_devrst : decoded 0b0010_10000001_1000000001_1111111110 = some (.devrst 0x81 0x201 0x3FE) := by decide
/-- `0011`, `0000`, bus 0x81, `0`, addr 0x41, reg 0xA3. -/
theorem test_decode_rdreg : decoded 0b0011_0000_10000001_0_1000001_10100011 = some (.rdreg 0x81 0x41 0xA3) := by decide
/-- `0100` and twenty-eight zeros. -/
theorem test_decode_probe : decoded 0b0100_0000000000000000000000000000 = some .probe := by decide
theorem test_encode_devrst : encode (.devrst 10 20 400) = 0x20A05190 := by decide
theorem test_encode_rdreg : encode (.rdreg 1 0x15 0xA3) = 0x300115A3 := by decide
/-- R112 (a): opcodes 0, 5 and 15; (b), (c) both bits of it, (d): the reserved fields' ends. -/
theorem test_illegal_words :
    illegal 0x00000000 = some (.unusedOpcode 0) ∧ illegal 0x50000000 = some (.unusedOpcode 5) ∧
    illegal 0xFFFFFFFF = some (.unusedOpcode 15) ∧ illegal 0x10000100 = some .scanReserved ∧
    illegal 0x18000001 = some .scanReserved ∧ illegal 0x30019500 = some .rdregReserved ∧
    illegal 0x31011500 = some .rdregReserved ∧ illegal 0x38000000 = some .rdregReserved ∧
    illegal 0x40000001 = some .probeReserved ∧ illegal 0x48000000 = some .probeReserved := by decide

/-! ## One step of each instruction -/

/-- Acceptance of SCAN 7 (R110). -/
theorem test_scan_taken : ((next? (execScan 7 State.reset)).map fun t => (t.block.latch.bus, t.block.seq.ph, t.block.seq.a,
    t.block.flags.busy)) = some (7, .sProbe, 0, true) := by decide
/-- V-S4: the comparison with `NACK_CODE` is on all 32 bits; a hit of address 127 is still reported (V-S3). -/
theorem test_scan_hit_is_32_bits : ((next? (seqStep refParams (writes [0x104] (scanning 127 .sProbe)))).map fun t =>
    (t.block.seq.ph, t.block.res.lastWrite)) = some (.sHit, 0x104) := by decide
/-- V-D3: high drive fails. -/
theorem test_devrst_high_fault : ((next? (seqStep refParams (pins [.fault] (during .devrst .dHigh)))).map fun t =>
    (t.block.flags.statusWord, t.block.seq.opc, t.world.trace)) = some (0x0C, .idle, [.ph1 0 .fault]) := by decide
/-- V-D4: a delay of 0 is issued. -/
theorem test_devrst_zero_delay : ((next? (seqStep refParams (during .devrst .dWaitLow))).map fun t =>
    (t.world.trace, t.block.seq.ph)) = some ([.dl 0], .dHigh) := by decide
/-- V-G2: a write-phase NACK is stored and the read follows with the bus held (R193, R194). -/
theorem test_rdreg_write_nack : ((next? (seqStep refParams (writes [4] (during .rdreg .gWrite)))).map fun t =>
    (t.block.seq.ph, t.block.res.lastWrite, t.world.trace)) =
      some (.gRead, 4, [.bw 0 0 1 [0] 1000 false 4]) := by decide
/-- V-G4: the value of an absent device is 0 although a byte was stored. -/
theorem test_rdreg_absent_value : ((next? (seqStep refParams (reads [⟨4, some 0x77, by decide⟩] (during .rdreg .gRead)))).map
    fun t => (t.block.res.rdresWord, t.block.desc.buf0, t.block.flags.statusWord)) = some (0, 0x77, 2) := by decide
/-- V-P4: an absent device is not reported, and the loop goes on to the next register. -/
theorem test_probe_absent : ((next? (seqStep refParams (reads [nackRead] (probing .gRead 0 0 0)))).map fun t =>
    (t.block.seq.ph, t.block.seq.j, t.block.flags.busy)) = some (.pNext, 1, true) := by decide
/-- V-P3: no repetition left, so the operation ends without a record (R220). -/
theorem test_probe_ends : ((next? (seqStep refParams (probing .pNext 20 0 0))).map fun t =>
    (t.block.flags.statusWord, t.world.trace)) = some (2, []) := by decide

/-! ## The register space -/

/-- V-H4: what `CFG_NADDR` stores. -/
theorem test_list_length_clamped : clampLength refParams 17 = 16 ∧ clampLength refParams 31 = 16 ∧ clampLength refParams 0x25 = 5 ∧ clampLength refParams 16 = 16 := by
  decide
/-- V-H5: `CFG_HIGH_MS` and `CFG_ADDR[0]` keep their field's bits. -/
theorem test_fields_cut : (resetBlock.cfg.write refParams 0x7FF .highMs).read .highMs = 0x3FF ∧
    (resetBlock.cfg.write refParams 0x95 (.addr 0)).read (.addr 0) = 0x15 := by decide
/-- V-H3: `STATUS` with `BUSY` and `OVERRUN`. -/
theorem test_status_word : (during .scan .sProbe).overrun.block.flags.statusWord = 0x21 := by decide
/-- R166's guard is R27's range: a probe at `A = 128` is a state no run reaches. -/
theorem test_stray_probe : strays (seqStep refParams (scanning 128 .sProbe)) = true := by decide

/-! ## Witnesses: decoding and encoding -/

theorem witness_DecodeInvertsEncode : (Instr.scan 255).wellFormed = true ∧ (Instr.devrst 255 1023 1023).wellFormed = true ∧
    (Instr.rdreg 255 127 255).wellFormed = true ∧ Instr.probe.wellFormed = true := by decide

theorem witness_EncodeInvertsDecode : decodeWord 0x100000FF = .ok (.scan 255) ∧
    decodeWord 0x2FFFFFFF = .ok (.devrst 255 1023 1023) ∧ decodeWord 0x30FF7FFF = .ok (.rdreg 255 127 255) ∧
    decodeWord 0x40000000 = .ok .probe := ⟨rfl, rfl, rfl, rfl⟩

/-- Each of R112's four cases, as the word an idle block is written. -/
theorem witness_IllegalWordsRefused : ∀ w : Word, w = 0x0FFFFFFF ∨ w = 0x50000000 ∨ w = 0x10000100 ∨ w = 0x18000000 ∨
    w = 0x30008000 ∨ w = 0x31000000 ∨ w = 0x38000000 ∨ w = 0x40000001 ∨ w = 0x48000000 →
    (∃ e, decodeWord w = .error e) ∧ (turns [.write 0x00 w] State.reset).world.host = .write 0x00 w :: [] ∧
    (turns [.write 0x00 w] State.reset).block.flags.busy = false := by
  intro w hw
  refine ⟨?_, rfl, rfl⟩
  rcases hw with rfl | rfl | rfl | rfl | rfl | rfl | rfl | rfl | rfl <;> exact ⟨_, rfl⟩

theorem witness_AssemblerWords : (AsmLine.scan 255).assemble = some (.scan 255) ∧
    (AsmLine.devrst 255 1023 1023).assemble = some (.devrst 255 1023 1023) ∧
    (AsmLine.rdreg 255 127 255).assemble = some (.rdreg 255 127 255) ∧ AsmLine.probe.assemble = some .probe ∧
    (AsmLine.scan 256).assemble = none ∧ (AsmLine.devrst 255 1023 1024).assemble = none ∧
    (AsmLine.rdreg 255 128 255).assemble = none := by decide

/-! ## Witnesses: taking a command -/

theorem witness_StepRunsDecodedCommand :
    (turns [.write 0x00 0x10000001] State.reset).world.host = .write 0x00 0x10000001 :: [] ∧
    decodeWord 0x10000001 = .ok (.scan 1) ∧ (Instr.scan 1).wellFormed = true ∧
    decodeTableWord 32 0x40000000 = some .probe := ⟨rfl, rfl, rfl, rfl⟩

theorem witness_CommandAcceptance : State.reset.block.flags.busy = false := by decide

theorem witness_BusyWritesOverrun : (turns [.write 0x00 0] (during .scan .sProbe)).block.flags.busy = true ∧
    (turns [.write 0x00 0] (during .scan .sProbe)).world.host = .write 0x00 0 :: [] ∧
    (0x14 : Nat) = (HostReg.cfg .bus).offset ∧ (0xBC : Nat) = (HostReg.cfg (.reg 15)).offset ∧
    (turns [.write 0xBC 7] (during .scan .sProbe)).world.host = .write 0xBC 7 :: [] := by decide

/-! ## Witnesses: the register space -/

theorem witness_ConfigurationWrites :
    (turns [.write 0x14 7] State.reset).world.host = .write (HostReg.cfg .bus).offset 7 :: [] ∧
    (turns [.write 0x14 7] State.reset).block.flags.busy = false ∧
    (turns [.write 0xBC 7] (during .scan .sProbe)).world.host = .write (HostReg.cfg (.reg 15)).offset 7 :: [] ∧
    (turns [.write 0xBC 7] (during .scan .sProbe)).block.flags.busy = true ∧
    (∃ t, exec .probe State.reset = .next t) ∧ (∃ t, seqStep Config.params (during .rdreg .gWrite) = .next t) ∧
    (turns [.read 0x7C] State.reset).world.host = .read (HostReg.cfg (.addr 15)).offset :: [] :=
  ⟨rfl, rfl, rfl, rfl, ⟨_, rfl⟩, ⟨_, rfl⟩, rfl⟩

theorem witness_StatusShowsFlags : (turns [.read 0x04] (during .scan .sProbe)).world.host = .read 0x04 :: [] ∧
    (turns [.write 0x04 0xFFFFFFFF] State.reset).world.host = .write 0x04 0xFFFFFFFF :: [] := by decide

theorem witness_ResultLatchReads : ∀ off, off = 0x08 ∨ off = 0x0C ∨ off = 0x10 →
    ((turns [.read off] State.reset).block.flags.busy = false ∧ (turns [.read off] State.reset).world.host = .read off :: []) ∧
    ((turns [.read off] (during .scan .sProbe)).block.flags.busy = true ∧
      (turns [.read off] (during .scan .sProbe)).world.host = .read off :: []) :=
  fun _ _ => ⟨⟨rfl, rfl⟩, ⟨rfl, rfl⟩⟩

/-- The ends of each range of offsets with no register, and a host that reads or writes there. -/
theorem witness_UnmappedOffsetsInert : (∀ off ∈ [1, 6, 0x30, 0x3C, 0x3F, 0xC0, 0xFC, 0xFF, 0x100, 0x104], unmappedOffset off) ∧
    (turns [.read 0xFC] State.reset).world.host = .read 0xFC :: [] ∧
    (turns [.write 0x100 7] (during .scan .sProbe)).world.host = .write 0x100 7 :: [] := by
  refine ⟨?_, rfl, rfl⟩
  intro off h
  unfold unmappedOffset
  simp only [List.mem_cons, List.not_mem_nil, or_false] at h
  omega

theorem witness_HostAccessSideEffects : (turns [.read 0x10] (during .scan .sProbe)).world.host = .read 0x10 :: [] ∧
    (turns [.write 0x10 7] State.reset).world.host = .write 0x10 7 :: [] ∧ hostRegAt 0x10 ≠ some .cmd ∧
    (∀ c, hostRegAt 0x10 ≠ some (.cfg c)) ∧ hostRegAt 0x14 = some (.cfg .bus) ∧ hostRegAt 0xBC = some (.cfg (.reg 15)) ∧
    (turns [.write 0xBC 7] (during .scan .sProbe)).block.flags.busy = true ∧
    (turns [.write 0x14 7] State.reset).block.flags.busy = false :=
  ⟨rfl, rfl, by decide, (fun c => by rw [show hostRegAt 0x10 = some .lastRead by decide]; simp), by decide, by decide, rfl, rfl⟩

/-- The register space's ends, and a read of `CMD`. -/
theorem witness_RegisterMap : (0xBC : Nat) = (HostReg.cfg (.reg 15)).offset ∧ (0x00 : Nat) = HostReg.cmd.offset ∧
    (turns [.read 0x00] (during .scan .sProbe)).world.host = .read 0x00 :: [] := by decide

/-! ## Witnesses: reset -/

theorem witness_ResetValues : (turns [.reset false] (during .scan .sHit)).world.host = .reset false :: [] ∧
    (turns [.reset true] (during .scan .sHit)).world.host = .reset true :: [] := by decide

theorem witness_BlockResetAbandons : (turns [.reset true] (during .rdreg .gRead)).world.host = .reset true :: [] ∧
    (turns [.reset false] (during .rdreg .gRead)).world.host = .reset false :: [] := by decide

theorem witness_IdleBlockWaits : State.reset.block.seq.opc = .idle ∧ State.reset.block.seq.ph = .idle ∧
    State.reset.hostSilent := ⟨rfl, rfl, rfl⟩

/-! ## Witnesses: the transition tables -/

/-- The first and the last address, the flush, and a sink that takes its last record. -/
theorem witness_ScanTransitions : ∀ a : BitVec 8, a = 0 ∨ a = 127 →
    (scanning a .sProbe).block.seq.opc = .scan ∧ (scanning a .sProbe).block.seq.ph = .sProbe ∧
    (scanning a .sProbe).block.seq.a.toNat ≤ 127 ∧ (∃ w, (writes [4] (scanning a .sProbe)).world.nextWriteAnswer = some (4, w)) ∧
    (scanning a .sHit).block.seq.ph = .sHit ∧ (∃ w, (answering 1 .sink (scanning a .sHit)).world.sinkTakes = some w) ∧
    (scanning 128 .sFlush).block.seq.ph = .sFlush ∧ (∃ w, (scanning 128 .sFlush).world.sinkTakes = some w) := by
  rintro a (rfl | rfl) <;> exact ⟨rfl, rfl, by decide, ⟨_, rfl⟩, rfl, ⟨_, rfl⟩, rfl, ⟨_, rfl⟩⟩

theorem witness_ResetTransitions : ∀ opc, opc = .devrst ∨ opc = .probe → ∀ r : PinAnswer,
    (during opc .dLow).block.seq.opc = opc ∧ (during opc .dLow).block.seq.ph = .dLow ∧
    (∃ w, (pins [r] (during opc .dLow)).world.nextPinAnswer = some (r, w)) ∧ (during opc .dHigh).block.seq.ph = .dHigh ∧
    (∃ w, (pins [r] (during opc .dHigh)).world.nextPinAnswer = some (r, w)) ∧
    (during opc .dWaitLow).block.seq.ph = .dWaitLow ∧ (during opc .dWaitHigh).block.seq.ph = .dWaitHigh ∧
    (∃ w, (during opc .dWaitLow).world.serves .delay = some w) ∧
    ∃ w, (answering 1 .delay (during opc .dWaitHigh)).world.serves .delay = some w :=
  fun _ _ _ => ⟨rfl, rfl, ⟨_, rfl⟩, rfl, ⟨_, rfl⟩, rfl, rfl, ⟨_, rfl⟩, ⟨_, rfl⟩⟩

theorem witness_ReadTransitions : ∀ opc, opc = .rdreg ∨ opc = .probe →
    (during opc .gWrite).block.seq.opc = opc ∧ (during opc .gWrite).block.seq.ph = .gWrite ∧
    (∃ w, (writes [4] (during opc .gWrite)).world.nextWriteAnswer = some (4, w)) ∧ (during opc .gRead).block.seq.ph = .gRead ∧
    (during opc .gRead).block.desc.addr = (during opc .gRead).block.latch.addr ∧
    (∃ w, (reads [nackRead] (during opc .gRead)).world.nextReadAnswer = some (nackRead, w)) ∧
    (∃ w, (reads [byteRead 7] (during opc .gRead)).world.nextReadAnswer = some (byteRead 7, w)) :=
  fun _ _ => ⟨rfl, rfl, ⟨_, rfl⟩, rfl, rfl, ⟨_, rfl⟩, ⟨_, rfl⟩⟩

/-- Every row, the last pair of the lists among them. -/
theorem witness_ProbeTransitions :
    (probing .dWaitHigh 0 0 0).block.seq.opc = .probe ∧ (probing .dWaitHigh 0 0 0).block.seq.ph = .dWaitHigh ∧
    (∃ w, (probing .dWaitHigh 0 0 0).world.serves .delay = some w) ∧
    (probing .pNext 20 0 0).block.seq.k = (probing .pNext 20 0 0).block.cfg.repeatCount ∧
    (probing .pNext 19 16 0).block.seq.k ≠ (probing .pNext 19 16 0).block.cfg.repeatCount ∧
    (probing .pNext 19 16 0).block.seq.i = (probing .pNext 19 16 0).block.cfg.naddr ∧
    (probing .pNext 19 15 16).block.seq.i ≠ (probing .pNext 19 15 16).block.cfg.naddr ∧
    (probing .pNext 19 15 16).block.seq.j = (probing .pNext 19 15 16).block.cfg.nreg ∧
    (probing .pNext 19 15 15).block.seq.j ≠ (probing .pNext 19 15 15).block.cfg.nreg ∧
    (probing .pNext 19 15 15).block.cfg.addrs[(probing .pNext 19 15 15).block.seq.i.toNat]? = some 0 ∧
    (probing .pNext 19 15 15).block.cfg.regs[(probing .pNext 19 15 15).block.seq.j.toNat]? = some 0 ∧
    (∃ w, (reads [nackRead] (probing .gRead 0 0 0)).world.nextReadAnswer = some (nackRead, w)) ∧
    (∃ w, (answering 1 .sink (probing .pValue 0 0 0)).world.sinkTakes = some w) ∧
    (probing .pMark 0 16 0).block.seq.ph = .pMark ∧ (probing .pFlush 0 16 0).block.seq.ph = .pFlush :=
  ⟨rfl, rfl, ⟨_, rfl⟩, rfl, by decide, rfl, by decide, rfl, by decide, rfl, rfl, ⟨_, rfl⟩, ⟨_, rfl⟩, rfl, rfl⟩

/-- A phase without a port call, a phase with one, and a report and a bus request that are not answered. -/
theorem witness_OneCallPerStep : (∃ t, seqStep refParams (probing .pNext 20 0 0) = .next t) ∧
    (probing .pNext 20 0 0).block.portCall refParams = none ∧
    (∃ t, seqStep refParams (during .devrst .dWaitLow) = .next t) ∧
    (during .devrst .dWaitLow).block.portCall refParams = some (.delayMs 0) ∧
    (∃ t, seqStep refParams (answering 0 .sink (during .scan .sFlush)) = .next t) ∧
    (answering 0 .sink (during .scan .sFlush)).block.portCall refParams = some (.report .flush) ∧
    (∃ t, seqStep refParams (answering 0 .bus (during .rdreg .gWrite)) = .next t) ∧
    (answering 0 .bus (during .rdreg .gWrite)).block.portCall refParams = some (.busWrite 0 0 1 [0] 1000 false) :=
  ⟨⟨_, rfl⟩, rfl, ⟨_, rfl⟩, rfl, ⟨_, rfl⟩, rfl, ⟨_, rfl⟩, rfl⟩

/-! ## Witnesses: whole operations -/

theorem witness_ScanRunsToCompletion : (writes [0, 4] State.reset).block.flags.busy = false ∧
    (writes [0, 4] State.reset).hostSilent ∧ (writes [0, 4] State.reset).answeredBy .bus ∧
    (writes [0, 4] State.reset).answeredBy .sink := ⟨rfl, rfl, rfl, rfl⟩

/-- Each of the three outcomes, the last with a delay unit that answers two requests more. -/
theorem witness_DevrstRunsToCompletion : State.reset.block.flags.busy = false ∧
    ((pins [.fault] State.reset).hostSilent ∧ (pins [.fault] State.reset).world.nextPinAnswer = some (.fault, State.reset.world)) ∧
    ((pins [.ok, .fault] State.reset).world.nextPinAnswer = some (.ok, (pins [.fault] State.reset).world) ∧
      (pins [.fault] State.reset).world.serves .delay = some (pins [.fault] State.reset).world) ∧
    (answering 2 .delay (pins [.ok, .ok] State.reset)).hostSilent ∧
    (answering 2 .delay (pins [.ok, .ok] State.reset)).world.nextPinAnswer =
      some (.ok, (answering 2 .delay (pins [.ok] State.reset)).world) ∧
    (answering 2 .delay (pins [.ok] State.reset)).world.serves .delay =
      some (answering 1 .delay (pins [.ok] State.reset)).world ∧
    (answering 1 .delay (pins [.ok] State.reset)).world.nextPinAnswer = some (.ok, (answering 1 .delay State.reset).world) ∧
    (answering 1 .delay State.reset).world.serves .delay = some (answering 0 .delay State.reset).world :=
  ⟨rfl, ⟨rfl, rfl⟩, ⟨rfl, rfl⟩, rfl, rfl, rfl, rfl, rfl⟩

theorem witness_RdregRunsToCompletion : State.reset.block.flags.busy = false ∧
    (reads [nackRead] (writes [4] State.reset)).hostSilent ∧
    (reads [nackRead] (writes [4] State.reset)).world.nextWriteAnswer = some (4, (reads [nackRead] State.reset).world) ∧
    (reads [nackRead] State.reset).world.nextReadAnswer = some (nackRead, State.reset.world) := ⟨rfl, rfl, rfl, rfl⟩

/-- An idle machine whose lists are full and whose drives answer `ok`. -/
def readyToProbe : State := pins [.ok, .ok] { State.reset with block := { resetBlock with cfg :=
  { resetBlock.cfg with naddr := 16, nreg := 16 } } }

theorem witness_ProbeRunsToCompletion : readyToProbe.block.flags.busy = false ∧ readyToProbe.hostSilent ∧
    readyToProbe.answeredBy .bus ∧ readyToProbe.answeredBy .delay ∧ readyToProbe.answeredBy .sink ∧
    CfgInv readyToProbe.block.cfg ∧ readyToProbe.world.nextPinAnswer = some (.ok, (pins [.ok] readyToProbe).world) ∧
    (pins [.ok] readyToProbe).world.nextPinAnswer = some (.ok, (pins [] readyToProbe).world) :=
  ⟨rfl, rfl, rfl, rfl, rfl, ⟨by decide, by decide⟩, rfl, rfl⟩

/-- Either drive fails. -/
theorem witness_ProbeAbandonedByPinFault : State.reset.block.flags.busy = false ∧
    ((pins [.fault] State.reset).hostSilent ∧ (pins [.fault] State.reset).world.nextPinAnswer = some (.fault, State.reset.world)) ∧
    (pins [.ok, .fault] State.reset).hostSilent ∧
    (pins [.ok, .fault] State.reset).world.nextPinAnswer = some (.ok, (pins [.fault] State.reset).world) ∧
    (pins [.fault] State.reset).world.serves .delay = some (pins [.fault] State.reset).world :=
  ⟨rfl, ⟨rfl, rfl⟩, rfl, rfl, rfl⟩

/-- Both levels, for DEVRST and for PROBE. -/
theorem witness_PinFaultAbandons : ∀ (level : Bool) (opc : Opc), opc = .devrst ∨ opc = .probe →
    PhaseInv (during opc (if level then .dHigh else .dLow)).block ∧
    (pins [.fault] (during opc (if level then .dHigh else .dLow))).hostSilent ∧
    (during opc (if level then .dHigh else .dLow)).block.seq.ph = (if level then .dHigh else .dLow) ∧
    ∃ w, (pins [.fault] (during opc (if level then .dHigh else .dLow))).world.nextPinAnswer = some (.fault, w) := by
  rintro (_ | _) opc (rfl | rfl) <;> exact ⟨⟨rfl, by decide⟩, rfl, rfl, ⟨_, rfl⟩⟩

theorem witness_WriteStatusIgnored : (during .rdreg .gWrite).block.seq.ph = .gWrite ∧
    (during .rdreg .gWrite).world.serves .bus = some (during .rdreg .gWrite).world ∧
    (∃ t, seqStep refParams (writes [0] (during .rdreg .gWrite)) = .next t) ∧
    ∃ t, seqStep refParams (writes [4] (during .rdreg .gWrite)) = .next t := ⟨rfl, rfl, ⟨_, rfl⟩, ⟨_, rfl⟩⟩

/-- Success and status 5, a transport fault under `NACK_CODE` 4. -/
theorem witness_FaultsTreatedAsSuccess : statusClass refParams 0 ≠ .addrNack ∧ statusClass refParams 5 ≠ .addrNack ∧
    (scanning 127 .sProbe).block.seq.ph = .sProbe ∧
    (scanning 127 .sProbe).world.serves .bus = some (scanning 127 .sProbe).world ∧
    (∃ t, seqStep refParams (writes [0] (scanning 127 .sProbe)) = .next t) ∧
    (∃ t, seqStep refParams (writes [5] (scanning 127 .sProbe)) = .next t) ∧
    (probing .gRead 19 15 15).world.serves .bus = some (probing .gRead 19 15 15).world ∧
    (byteRead 7).rx = (⟨5, some 7, by decide⟩ : ReadAnswer).rx ∧ (probing .gRead 19 15 15).block.seq.ph = .gRead ∧
    (∃ t, seqStep refParams (reads [byteRead 7] (probing .gRead 19 15 15)) = .next t) ∧
    ∃ t, seqStep refParams (reads [⟨5, some 7, by decide⟩] (probing .gRead 19 15 15)) = .next t :=
  ⟨by decide, by decide, rfl, rfl, ⟨_, rfl⟩, ⟨_, rfl⟩, rfl, rfl, rfl, ⟨_, rfl⟩, ⟨_, rfl⟩⟩

/-- R117: the three classes. -/
theorem test_status_classes : statusClass refParams 0 = .success ∧ statusClass refParams 4 = .addrNack ∧
    statusClass refParams 0x104 = .transportFault := by decide

/-! ## Witnesses: invariants -/

/-- A hit of address 127 waiting to be reported is a legal state: status 0 is never `NACK_CODE` (R6). -/
theorem hit_is_legal : BlockInv Config.params (scanning 127 .sHit).block where
  phase := ⟨rfl, by decide⟩
  flags := ⟨by decide, by decide, by decide, by decide, by decide⟩
  desc := ⟨by decide, by decide, .inl rfl⟩
  cfg := ⟨by decide, by decide⟩
  counters := ⟨by decide, by decide, by decide, by decide, by decide, by decide, by decide, by decide⟩
  latches := ⟨by decide, by decide, by decide, fun _ h => Config.nackCode_ne_zero h.symm, by decide⟩

/-- The register read of the last pair of the last sweep is a legal state. -/
theorem last_read_is_legal : BlockInv Config.params (probing .gRead 19 15 15).block where
  phase := ⟨rfl, by decide⟩
  flags := ⟨by decide, by decide, by decide, by decide, by decide⟩
  desc := ⟨by decide, by decide, .inl rfl⟩
  cfg := ⟨by decide, by decide⟩
  counters := ⟨by decide, by decide, by decide, by decide, by decide, by decide, by decide, by decide⟩
  latches := ⟨by decide, by decide, by decide, (fun h => by cases h), (fun h => by cases h)⟩

/-- The flush after the last sweep is a legal state. -/
theorem last_flush_is_legal : BlockInv Config.params (probing .pFlush 19 16 0).block where
  phase := ⟨rfl, by decide⟩
  flags := ⟨by decide, by decide, by decide, by decide, by decide⟩
  desc := ⟨by decide, by decide, .inl rfl⟩
  cfg := ⟨by decide, by decide⟩
  counters := ⟨by decide, by decide, by decide, by decide, by decide, by decide, by decide, by decide⟩
  latches := ⟨by decide, by decide, by decide, (fun h => by cases h), (fun h => by cases h)⟩

/-- The write phase of a register read is a legal state. -/
theorem write_phase_is_legal : BlockInv Config.params (during .rdreg .gWrite).block where
  phase := ⟨rfl, by decide⟩
  flags := ⟨by decide, by decide, by decide, by decide, by decide⟩
  desc := ⟨by decide, by decide, .inl rfl⟩
  cfg := ⟨by decide, by decide⟩
  counters := ⟨by decide, by decide, by decide, by decide, by decide, by decide, by decide, by decide⟩
  latches := ⟨by decide, by decide, by decide, (fun h => by cases h), (fun h => by cases h)⟩

/-- A host that writes, waits and reads while the sink, or the bus, is silent, and a block reset of each form. -/
theorem witness_SilentCollaboratorStalls :
    (BlockInv Config.params (scanning 127 .sHit).block ∧ (scanning 127 .sHit).block.seq.ph.collaborator = some .sink ∧
      (turns [.write 0x00 0, .seq, .read 0x04] (answering 0 .sink (scanning 127 .sHit))).silent .sink ∧
      (∀ h ∈ (turns [.write 0x00 0, .seq, .read 0x04] (answering 0 .sink (scanning 127 .sHit))).world.host, h.isReset = false)) ∧
    (BlockInv Config.params (during .rdreg .gWrite).block ∧ (during .rdreg .gWrite).block.seq.ph.collaborator = some .bus ∧
      (answering 0 .bus (during .rdreg .gWrite)).silent .bus ∧
      (∀ h ∈ (answering 0 .bus (during .rdreg .gWrite)).world.host, h.isReset = false)) ∧
    (∀ opc, opc = .devrst ∨ opc = .probe →
      Phase.dHigh.usedBy opc = true ∧ (during opc .dHigh).block.seq.ph.collaborator = some .gpio ∧
      (answering 0 .gpio (during opc .dHigh)).silent .gpio ∧ Phase.dWaitLow.usedBy opc = true ∧
      (during opc .dWaitLow).block.seq.ph.collaborator = some .delay ∧
      (answering 0 .delay (during opc .dWaitLow)).silent .delay) ∧
    ∀ carriedOut, (turns [.reset carriedOut] (answering 0 .bus (during .rdreg .gWrite))).world.host = .reset carriedOut :: [] ∧
      (turns [.reset carriedOut] (answering 0 .bus (during .rdreg .gWrite))).silent .bus :=
  ⟨⟨hit_is_legal, rfl, rfl, by decide⟩, ⟨write_phase_is_legal, rfl, rfl, by decide⟩,
    (by rintro opc (rfl | rfl) <;> exact ⟨rfl, rfl, rfl, rfl, rfl, rfl⟩), fun _ => ⟨rfl, rfl⟩⟩

/-- A bus that never answers: BUSY stays 1, the write request stands in the descriptor, and no event happens (R23, R277). -/
theorem test_silent_bus_waits : ((next? (seqStep refParams (answering 0 .bus (during .rdreg .gWrite)))).map fun t =>
    (t.block.flags.statusWord, t.block.desc, t.block.seq.ph, t.world.trace)) =
      some (1, { addr := 0, len := 1, valid := true, buf0 := 0 }, .gWrite, []) := by decide

/-- A delay unit that never answers: the sequencer waits in its phase (U15). -/
theorem test_silent_delay_waits : ((next? (seqStep refParams (answering 0 .delay (during .devrst .dWaitHigh)))).map fun t =>
    (t.block.flags.statusWord, t.block.seq.ph, t.world.trace)) = some (1, .dWaitHigh, []) := by decide

/-- A legal state whose descriptor is valid steps on, and reset. -/
theorem witness_DescriptorValidOnlyWhileUnanswered :
    ∃ s t, seqStep Config.params (answering 0 .bus (during .rdreg .gWrite)) = .next s ∧ s.block.desc.valid = true ∧
      PhaseInv s.block ∧ s.block.seq.ph.collaborator = some .bus ∧ s.silent .bus ∧ step s = .next t :=
  ⟨_, _, rfl, rfl, ⟨rfl, by decide⟩, rfl, rfl, rfl⟩

theorem witness_StepKeepsLegal : BlockInv Config.params (probing .gRead 19 15 15).block ∧
    (∃ t, step (probing .gRead 19 15 15) = .next t) ∧ BlockInv Config.params (probing .pFlush 19 16 0).block ∧
    ∃ t, step (probing .pFlush 19 16 0) = .next t := ⟨last_read_is_legal, ⟨_, rfl⟩, last_flush_is_legal, ⟨_, rfl⟩⟩

theorem witness_LegalStatesStep : BlockInv Config.params (scanning 127 .sHit).block := hit_is_legal

/-- Between the two phases of a read of device 0x15 on bus 7. -/
def holding : State :=
  { block := { (during .rdreg .gRead).block with
      latch := { (during .rdreg .gRead).block.latch with bus := 7, addr := 0x15 }
      desc := { (during .rdreg .gRead).block.desc with addr := 0x15, len := 1 } }
    world := { State.reset.world with trace := [.bw 7 0x15 1 [0xA3] 1000 false 0] } }

theorem witness_BusHeldOnlyInsideRead : PhaseInv holding.block ∧ HeldInv holding ∧
    (∀ c rest, holding.world.host ≠ .reset c :: rest) ∧ (∃ t, step holding = .next t) ∧
    PhaseInv State.reset.block ∧ HeldInv State.reset ∧ State.reset.block.seq.opc = .idle := by
  refine ⟨⟨rfl, by decide⟩, ?_, by simp [holding, State.reset, World.initial], ⟨_, rfl⟩, ⟨rfl, by decide⟩, ?_, rfl⟩
  · intro bus; simp [holding, heldBy, heldAfter, during]
  · intro bus; simp [State.reset, World.initial, Block.reset, heldBy]

/-- Both answers to whether the outstanding read was carried out; then the last probe of a scan, the read phase, and a
step that releases the bus. -/
theorem witness_BlockResetMayLeaveBusHeld : (∀ carriedOut : Bool, PhaseInv (turns [.reset carriedOut] holding).block ∧
      HeldInv (turns [.reset carriedOut] holding) ∧ (turns [.reset carriedOut] holding).block.seq.ph = .gRead ∧
      (turns [.reset carriedOut] holding).world.host = .reset carriedOut :: []) ∧
    (PhaseInv (scanning 127 .sProbe).block ∧ (scanning 127 .sProbe).block.seq.ph = .sProbe ∧
      (scanning 127 .sProbe).block.seq.a.toNat ≤ 127 ∧ ¬(scanning 127 .sProbe).silent .bus) ∧
    PhaseInv holding.block ∧ holding.block.seq.ph = .gRead ∧ ¬(answering 1 .bus holding).silent .bus ∧
    ∃ v e, step (reads [nackRead] holding) = .next v ∧ v.world.trace = holding.world.trace ++ [e] ∧ e.releases 7 = true := by
  refine ⟨?_, ⟨⟨rfl, by decide⟩, rfl, by decide, by simp [State.silent, scanning, during, World.left, State.reset, World.initial]⟩,
    ⟨rfl, by decide⟩, rfl, by simp [State.silent, answering, World.left, World.withLeft], _, _, rfl, rfl, rfl⟩
  rintro (_ | _) <;> refine ⟨⟨rfl, by decide⟩, ?_, rfl, rfl⟩ <;> intro bus <;>
    simp [turns, holding, heldBy, heldAfter, during]

theorem witness_ReadFollowsEveryHold : PhaseInv holding.block ∧ ReadFollowsHold holding ∧
    (∀ c rest, holding.world.host ≠ .reset c :: rest) ∧ ∃ t, step holding = .next t := by
  refine ⟨⟨rfl, by decide⟩, ?_, by simp [holding, State.reset, World.initial], ⟨_, rfl⟩⟩
  intro before after bus addr len data timeout st h
  cases before with
  | nil => simp [holding] at h; simp [holding, during, h]
  | cons e l => simp [holding] at h

theorem witness_TimeoutOnEveryRequest : (∀ e ∈ holding.world.trace, e.timeoutIs Config.params.timeoutUnits) ∧
    ∃ t, step holding = .next t := by
  refine ⟨?_, ⟨_, rfl⟩⟩
  intro e he
  simp only [holding, List.mem_singleton] at he
  subst he; rfl

theorem witness_TraceGrowsByOneEvent : ∃ t, step holding = .next t := ⟨_, rfl⟩

/-- A read, a dropped write and a dropped command around one sequencer turn of a reset sequence. -/
def disturbed : State :=
  turns [.read 0x08, .write 0x14 7, .seq, .write 0x00 0x40000000] (pins [.ok] (during .devrst .dLow))

theorem witness_HostAccessesCannotDisturb : PhaseInv disturbed.block ∧
    (∀ h ∈ disturbed.world.host, h.isReset = false) ∧
    ∃ u, run (disturbed.world.host.countP fun h => !h.isAccess)
      { disturbed with world := { disturbed.world with host := [] } } = .next u ∧ u.block.flags.busy = true :=
  ⟨⟨rfl, by decide⟩, by decide, ⟨_, rfl, rfl⟩⟩

/-! ## Witnesses: parameters -/

/-- Two instances that differ in the OPEN parameter, and a reset of each. -/
theorem witness_ParameterTable : refParams.nackCode = 4 ∧ { refParams with nackCode := 7, nackCode_ne_zero := by decide } ≠ refParams ∧
    (turns [.reset true] (during .scan .sHit)).world.host = .reset true :: [] := by decide

end Sys2Proof.Tests
end

section
/-! PROOFS. The parameter table (R5, R6) and the values a block reset takes from it (R48 to R50, R57). -/

namespace Sys2Proof.Machine

/-! ## The block reset as a step -/

@[simp] theorem blockReset_block (P : Params) (carriedOut : Bool) (s : State) :
    (blockReset P carriedOut s).block = Block.reset P := rfl

@[simp] theorem Block.reset_lowMs (P : Params) : (Block.reset P).cfg.lowMs = P.refSettleLowMs := rfl

@[simp] theorem Block.reset_highMs (P : Params) : (Block.reset P).cfg.highMs = P.refSettleHighMs := rfl

@[simp] theorem Block.reset_repeatCount (P : Params) : (Block.reset P).cfg.repeatCount = P.refRepeat := rfl

/-- `step_turn` under any parameters: a step of a machine whose host has a turn is that turn. -/
theorem stepWith_turn (P : Params) {s : State} {turn : HostTurn} {rest : List HostTurn}
    (h : s.world.host = turn :: rest) : stepWith P s = takeTurn P turn (s.withTurns rest) := by
  simp [stepWith, h]

/-- A step that takes a reset turn is the block reset, from every state (R58, R260). -/
theorem stepWith_reset (P : Params) {s : State} {carriedOut : Bool} {rest : List HostTurn}
    (h : s.world.host = .reset carriedOut :: rest) :
    stepWith P s = .next (blockReset P carriedOut (s.withTurns rest)) :=
  stepWith_turn P h

/-! ## The structural parameters -/

/-- The value types of `State` have the widths of the parameter record, because `widths_eq` leaves it one value. -/
theorem types_have_widths (P : Params) :
    DevAddr = BitVec P.widths.addrW ∧ Byte = BitVec P.widths.regW ∧ Byte = BitVec P.widths.dataW ∧
    Byte = BitVec P.widths.busW ∧ Byte = BitVec P.widths.pinW ∧ Millis = BitVec P.widths.msW ∧
    StatusCode = BitVec P.widths.statusW ∧ Word = BitVec P.widths.timeoutW := by
  rw [P.widths_val]
  exact ⟨rfl, rfl, rfl, rfl, rfl, rfl, rfl, rfl⟩

/-- Settles O43: the structural rows from the laws `Params` carries, this instance's rows from its definition, the
reset values from `stepWith_reset`. -/
theorem parameterTable : Obligations.ParameterTable := by
  refine ⟨fun P => ?structural, rfl, rfl, rfl, rfl, rfl, fun P s carriedOut rest hturn => ?reset⟩
  case structural =>
    exact ⟨P.widths_val, P.numAddr_val, P.listMax_val, P.nackCode_ne_zero, P.timeoutUnit_pos, types_have_widths P⟩
  case reset =>
    exact ⟨_, stepWith_reset P hturn, by simp⟩

end Sys2Proof.Machine
end

section
/-! PROOFS. What a row of the transition tables keeps: the configuration, the phase of the operation, the descriptor, the
counters and the latches (R22 to R31, R55, R137). -/

namespace Sys2Proof.Machine

variable {P : Params} {s t : State} {ph : Phase} {opc : Opc} {b c : Block}

/-! ## The cases a row falls into -/

/-- No row writes a configuration register (R55). -/
theorem SeqRow.cfg_eq (h : SeqRow P s ph opc t) : t.block.cfg = s.block.cfg := by
  cases h with
  | nextPair b _ _ _ hb => obtain ⟨addr, reg, -, -, rfl⟩ := Block.loadPair_some hb; rfl
  | unanswered => exact Block.requesting_cfg P s.block
  | _ => rfl

/-- A row writes none of the operands that last a whole PROBE (R25). -/
theorem SeqRow.operands_eq (h : SeqRow P s ph opc t) :
    t.block.latch.bus = s.block.latch.bus ∧ t.block.latch.pin = s.block.latch.pin ∧
      t.block.latch.low = s.block.latch.low ∧ t.block.latch.high = s.block.latch.high := by
  cases h with
  | nextPair b _ _ _ hb => obtain ⟨addr, reg, -, -, rfl⟩ := Block.loadPair_some hb; exact ⟨rfl, rfl, rfl, rfl⟩
  | unanswered => simp
  | _ => exact ⟨rfl, rfl, rfl, rfl⟩

/-- The operation goes on, in a phase of its own and with its flags, or the row ends it, normally or by PinFault
(R26, R33, R233). -/
theorem SeqRow.goes_on_or_ends (hp : s.block.seq.ph = ph) (ho : s.block.seq.opc = opc) (h : SeqRow P s ph opc t) :
    (t.block.seq.opc = opc ∧ t.block.seq.ph.usedBy opc = true ∧ t.block.flags = s.block.flags) ∨
    (opc ≠ .idle ∧ t.block.seq = { s.block.seq with opc := .idle, ph := .idle } ∧
      (t.block.flags = s.block.flags.completed ∨ ∃ stage, t.block.flags = s.block.flags.pinFaulted stage)) := by
  cases h with
  | waits => exact .inl ⟨ho, by rw [hp]; rfl, rfl⟩
  | miss | hitReported => exact .inl ⟨ho, by simp only [State.scanAdvance_seq]; split <;> rfl, rfl⟩
  | drive _ _ _ _ _ hopc hrow =>
    refine .inl ⟨ho, ?_, rfl⟩
    rcases hopc with rfl | rfl <;> rcases hrow with ⟨-, -, rfl⟩ | ⟨-, -, rfl⟩ <;> rfl
  | waitedLow _ _ hopc | written _ _ _ hopc => exact .inl ⟨ho, by rcases hopc with rfl | rfl <;> rfl, rfl⟩
  | nextPair b _ _ _ hb =>
    obtain ⟨addr, reg, -, -, rfl⟩ := Block.loadPair_some hb
    exact .inl ⟨ho, rfl, rfl⟩
  | unanswered _ _ _ hph hu => exact .inl ⟨by simpa using ho, by simpa [← hph] using hu, by simp⟩
  | pinFault level _ _ _ hopc => exact .inr ⟨by rcases hopc with rfl | rfl <;> simp, rfl, .inr ⟨level, rfl⟩⟩
  | scanFlushed | resetDone | readDone | probeDone => exact .inr ⟨by simp, rfl, .inl rfl⟩
  | _ => exact .inl ⟨ho, rfl, rfl⟩

/-- What a row does to the descriptor: a request that is not answered populates it, an answered bus request leaves it
invalid, and no other phase touches it (R22, R23, R137). -/
theorem SeqRow.desc_cases (h : SeqRow P s ph opc t) :
    (t = { s with block := s.block.requesting P } ∧ ∃ k, ph.collaborator = some k ∧ s.silent k) ∨
    (t.block.desc.valid = false ∧ (t.block.desc.len = 0 ∨ t.block.desc.len = 1)) ∨
    (ph.collaborator ≠ some .bus ∧ t.block.desc = s.block.desc) := by
  cases h with
  | unanswered _ _ k _ _ hk hl => exact .inl ⟨rfl, k, hk, hl⟩
  | hit | miss => exact .inr (.inl ⟨rfl, .inl rfl⟩)
  | written | readDone | absent | present => exact .inr (.inl ⟨rfl, .inr rfl⟩)
  | drive _ _ _ _ _ _ hrow =>
    refine .inr (.inr ⟨?_, rfl⟩)
    rcases hrow with ⟨-, rfl, -⟩ | ⟨-, rfl, -⟩ <;> simp [Phase.collaborator]
  | pinFault _ _ _ _ _ hrow =>
    refine .inr (.inr ⟨?_, rfl⟩)
    rcases hrow with ⟨-, rfl⟩ | ⟨-, rfl⟩ <;> simp [Phase.collaborator]
  | nextPair b _ _ _ hb =>
    obtain ⟨addr, reg, -, -, rfl⟩ := Block.loadPair_some hb
    exact .inr (.inr ⟨by simp [Phase.collaborator], rfl⟩)
  | _ => exact .inr (.inr ⟨by simp [Phase.collaborator], rfl⟩)

/-! ## Phases and flags (R26, R31, R35, R38) -/

theorem Phase.usedBy_idle {p : Phase} (h : p.usedBy .idle = true) : p = .idle := by
  cases p <;> simp [Phase.usedBy] at h ⊢

/-- A block that is not busy has no operation and waits in `PH_IDLE`. -/
theorem PhaseInv.idle (h : PhaseInv b) (hb : b.flags.busy = false) : b.seq.opc = .idle ∧ b.seq.ph = .idle := by
  have ho : b.seq.opc = .idle := by
    by_contra hne
    simp [h.busy_iff.mpr hne] at hb
  exact ⟨ho, Phase.usedBy_idle (ho ▸ h.phase_of_operation)⟩

theorem PhaseInv.of_idle (hb : b.flags.busy = false) (ho : b.seq.opc = .idle) (hp : b.seq.ph = .idle) : PhaseInv b :=
  ⟨by rw [ho, hp]; rfl, by simp [hb, ho]⟩

theorem SeqRow.keeps_phase (hi : PhaseInv s.block) (h : SeqRow P s s.block.seq.ph s.block.seq.opc t) :
    PhaseInv t.block := by
  rcases SeqRow.goes_on_or_ends rfl rfl h with ⟨ho, hu, hf⟩ | ⟨-, hq, hf⟩
  · exact ⟨by rw [ho]; exact hu, by rw [ho, hf]; exact hi.busy_iff⟩
  · refine .of_idle ?_ (by rw [hq]) (by rw [hq])
    rcases hf with hf | ⟨stage, hf⟩ <;> simp [hf]

theorem FlagInv.overran {f : Flags} (h : FlagInv f) : FlagInv f.overran :=
  ⟨h.done_pinfault, h.done_illegal, h.pinfault_illegal, h.busy_alone, h.stage_pinfault⟩

theorem FlagInv.accepted (f : Flags) : FlagInv f.accepted := by
  constructor <;> simp

theorem FlagInv.illegalTaken {f : Flags} (hb : f.busy = false) : FlagInv f.illegalTaken := by
  constructor <;> simp [hb]

/-- A running operation has no outcome flag set, so its normal end sets the only one. -/
theorem FlagInv.completed {f : Flags} (h : FlagInv f) (hb : f.busy = true) : FlagInv f.completed := by
  obtain ⟨-, hp, hi⟩ := h.busy_alone hb
  constructor <;> simp [hp, hi]
  simpa [hp] using h.stage_pinfault

/-- A running operation has no outcome flag set, so PinFault sets the only one. -/
theorem FlagInv.pinFaulted {f : Flags} (h : FlagInv f) (hb : f.busy = true) (stage : Bool) :
    FlagInv (f.pinFaulted stage) := by
  obtain ⟨hd, -, hi⟩ := h.busy_alone hb
  constructor <;> simp [hd, hi]

theorem SeqRow.keeps_flags (hi : PhaseInv s.block) (hf : FlagInv s.block.flags)
    (h : SeqRow P s s.block.seq.ph s.block.seq.opc t) : FlagInv t.block.flags := by
  rcases SeqRow.goes_on_or_ends rfl rfl h with ⟨-, -, he⟩ | ⟨ho, -, he | ⟨stage, he⟩⟩
  · rw [he]; exact hf
  · rw [he]; exact hf.completed (hi.busy_iff.mpr ho)
  · rw [he]; exact hf.pinFaulted (hi.busy_iff.mpr ho) stage

/-! ## The descriptor (R22, R23, R137) -/

theorem DescInv.of_invalid (hv : b.desc.valid = false) (hl : b.desc.len = 0 ∨ b.desc.len = 1) : DescInv P b :=
  ⟨by simp [hv], by simp [hv], hl⟩

/-- In a phase without a bus request the descriptor is not valid. -/
theorem DescInv.invalid (h : DescInv P b) (hc : b.seq.ph.collaborator ≠ some .bus) : b.desc.valid = false := by
  by_contra hv
  exact hc (h.valid_outstanding (by simpa using hv))

theorem DescInv.requesting (h : DescInv P b) : DescInv P (b.requesting P) := by
  by_cases hc : b.seq.ph.collaborator = some .bus
  · refine ⟨fun _ => by simpa using hc, fun _ => Block.requesting_requesting P b, ?_⟩
    unfold Block.requesting
    split
    · exact .inl rfl
    · exact .inr rfl
    · exact .inr rfl
    · exact h.len_zero_or_one
  · rw [Block.requesting_eq hc]; exact h

theorem SeqRow.keeps_desc (hi : DescInv P s.block) (h : SeqRow P s s.block.seq.ph s.block.seq.opc t) :
    DescInv P t.block := by
  rcases h.desc_cases with ⟨rfl, -⟩ | ⟨hv, hl⟩ | ⟨hc, he⟩
  · exact hi.requesting
  · exact .of_invalid hv hl
  · exact .of_invalid (he ▸ hi.invalid hc) (he ▸ hi.len_zero_or_one)

/-! ## The counters (R27 to R30, R216, R217) -/

theorem CounterInv.of_idle (ho : b.seq.opc = .idle) (hp : b.seq.ph = .idle) (ha : b.seq.a.toNat ≤ 128) :
    CounterInv b := by
  constructor <;> simp [ho, hp, ha, Phase.endsSweep]

/-- A move to another phase, with the counters and the configuration as they are: what is to be shown is that the new phase
may have these counters. -/
theorem CounterInv.moves (h : CounterInv b) (p : Phase) (hcfg : c.cfg = b.cfg) (hseq : c.seq = { b.seq with ph := p })
    (hprobed : p = .sProbe ∨ p = .sHit → b.seq.a.toNat ≤ 127) (hflush : p = .sFlush → b.seq.a.toNat = 128)
    (hread : b.seq.opc = .probe → p.inRead = true →
      b.seq.k.toNat < b.cfg.repeatCount.toNat ∧ b.seq.i.toNat < b.cfg.naddr.toNat ∧ b.seq.j.toNat < b.cfg.nreg.toNat)
    (hsweep : p.endsSweep = true → b.seq.k.toNat < b.cfg.repeatCount.toNat ∧ b.seq.i = b.cfg.naddr) :
    CounterInv c := by
  constructor <;> simp only [hseq, hcfg]
  exacts [h.a_le, hprobed, hflush, h.k_le, h.i_le, h.j_le, hread, hsweep]

/-- A move to a phase that asks nothing of the counters. -/
theorem CounterInv.moves_free (h : CounterInv b) (p : Phase) (hcfg : c.cfg = b.cfg)
    (hseq : c.seq = { b.seq with ph := p }) (hs : p ≠ .sProbe ∧ p ≠ .sHit ∧ p ≠ .sFlush) (hr : p.inRead = false)
    (he : p.endsSweep = false) : CounterInv c :=
  h.moves p hcfg hseq (by simp [hs]) (by simp [hs]) (by simp [hr]) (by simp [he])

theorem CounterInv.scanAdvance (ho : s.block.seq.opc = .scan) (ha : s.block.seq.a.toNat ≤ 127) :
    CounterInv (s.scanAdvance P).block := by
  have hn : (s.block.seq.a + 1).toNat = s.block.seq.a.toNat + 1 := by bv_omega
  constructor <;> simp only [State.scanAdvance_seq, Params.numAddr_val, hn, ho]
  case a_le => omega
  case a_probed => split <;> simp; omega
  case a_end => split <;> simp; omega
  case at_sweep_end => split <;> simp [Phase.endsSweep]
  all_goals simp

/-- On to the next register of a row, after a register read (R216). -/
theorem CounterInv.nextRegister (h : CounterInv b) (ho : b.seq.opc = .probe) (hr : b.seq.ph.inRead = true)
    (hcfg : c.cfg = b.cfg) (hseq : c.seq = { b.seq with j := b.seq.j + 1, ph := .pNext }) : CounterInv c := by
  obtain ⟨-, -, hj⟩ := h.in_read ho hr
  constructor <;> simp only [hseq, hcfg]
  case a_le => exact h.a_le
  case k_le => exact h.k_le
  case i_le => exact h.i_le
  case j_le => intro _; bv_omega
  all_goals simp [Phase.inRead, Phase.endsSweep]

/-- On to the next sweep, after a sweep's flush (R217). -/
theorem CounterInv.nextSweep (h : CounterInv b) (he : b.seq.ph.endsSweep = true) (hcfg : c.cfg = b.cfg)
    (hseq : c.seq = { b.seq with k := b.seq.k + 1, i := 0, j := 0, ph := .pNext }) : CounterInv c := by
  obtain ⟨hk, -⟩ := h.at_sweep_end he
  constructor <;> simp only [hseq, hcfg]
  case a_le => exact h.a_le
  case k_le => intro _; bv_omega
  all_goals simp [Phase.inRead, Phase.endsSweep]

/-- On to the next row of the matrix, while `I` has not reached the number of addresses (R217). -/
theorem CounterInv.nextRow (h : CounterInv b) (ho : b.seq.opc = .probe) (hi : b.seq.i ≠ b.cfg.naddr)
    (hcfg : c.cfg = b.cfg) (hseq : c.seq = { b.seq with i := b.seq.i + 1, j := 0, ph := .pNext }) : CounterInv c := by
  have hle := h.i_le ho
  constructor <;> simp only [hseq, hcfg]
  case a_le => exact h.a_le
  case k_le => exact h.k_le
  case i_le => intro _; bv_omega
  all_goals simp [Phase.inRead, Phase.endsSweep]

theorem CounterInv.requesting (h : CounterInv b) : CounterInv (b.requesting P) := by
  constructor <;> simp only [Block.requesting_seq, Block.requesting_cfg]
  exacts [h.a_le, h.a_probed, h.a_end, h.k_le, h.i_le, h.j_le, h.in_read, h.at_sweep_end]

theorem SeqRow.keeps_counters (hp : s.block.seq.ph = ph) (ho : s.block.seq.opc = opc) (hi : CounterInv s.block)
    (h : SeqRow P s ph opc t) : CounterInv t.block := by
  have hread : ph.inRead = true → opc = .probe → s.block.seq.k.toNat < s.block.cfg.repeatCount.toNat ∧
      s.block.seq.i.toNat < s.block.cfg.naddr.toNat ∧ s.block.seq.j.toNat < s.block.cfg.nreg.toNat :=
    fun hr hopc => hi.in_read (by rw [ho, hopc]) (by rw [hp, hr])
  cases h with
  | waits => exact hi
  | unanswered => exact hi.requesting
  | scanFlushed | pinFault | resetDone | readDone | probeDone => exact .of_idle rfl rfl hi.a_le
  | miss _ _ ha | hitReported _ ha => exact .scanAdvance ho ha
  | hit _ _ ha => exact hi.moves .sHit rfl rfl (fun _ => ha) (by simp) (by simp [Phase.inRead]) (by simp [Phase.endsSweep])
  | drive _ _ _ _ _ _ hrow =>
    rcases hrow with ⟨-, -, rfl⟩ | ⟨-, -, rfl⟩ <;> exact hi.moves_free _ rfl rfl (by simp) rfl rfl
  | waitedLow | toSweeps => exact hi.moves_free _ rfl rfl (by simp) rfl rfl
  | written =>
    exact hi.moves .gRead rfl rfl (by simp) (by simp) (fun h _ => hread rfl (ho ▸ h)) (by simp [Phase.endsSweep])
  | present =>
    exact hi.moves .pValue rfl rfl (by simp) (by simp) (fun _ _ => hread rfl rfl) (by simp [Phase.endsSweep])
  | absent | valueReported => exact hi.nextRegister ho (by rw [hp]; rfl) rfl rfl
  | sweepEnds hk hn =>
    have := hi.k_le ho
    exact hi.moves .pMark rfl rfl (by simp) (by simp) (by simp [Phase.inRead]) fun _ => ⟨by bv_omega, hn⟩
  | marked =>
    exact hi.moves .pFlush rfl rfl (by simp) (by simp) (by simp [Phase.inRead]) fun _ => hi.at_sweep_end (by rw [hp]; rfl)
  | rowEnds _ hn => exact hi.nextRow ho hn rfl rfl
  | nextPair b hk hn hm hb =>
    obtain ⟨addr, reg, -, -, rfl⟩ := Block.loadPair_some hb
    have hkl := hi.k_le ho
    have hil := hi.i_le ho
    have hjl := hi.j_le ho
    exact hi.moves .gWrite rfl rfl (by simp) (by simp) (fun _ _ => ⟨by bv_omega, by bv_omega, by bv_omega⟩)
      (by simp [Phase.endsSweep])
  | flushed => exact hi.nextSweep (by rw [hp]; rfl) rfl rfl

/-! ## The latches (R25, R164, R195, R197, R213) -/

theorem LatchInv.of_idle (ho : b.seq.opc = .idle) (hp : b.seq.ph = .idle) : LatchInv P b := by
  constructor <;> simp [ho, hp]

theorem LatchInv.requesting (h : LatchInv P b) : LatchInv P (b.requesting P) := by
  constructor <;> simp only [Block.requesting_seq, Block.requesting_cfg, Block.requesting_latch, Block.requesting_res]
  case read_addr =>
    intro hp
    simpa [Block.requesting, hp] using h.read_addr hp
  exacts [h.probe_operands, h.probe_pair, h.hit_status, h.value_present]

/-- A row that leads to a phase that is no part of a register read and reports no hit need only keep PROBE's operands. -/
theorem SeqRow.keeps_latches_outside_read (ho : s.block.seq.opc = opc) (hi : LatchInv P s.block)
    (h : SeqRow P s ph opc t) (hopc : t.block.seq.opc = .probe → opc = .probe) (hr : t.block.seq.ph.inRead = false)
    (hs : t.block.seq.ph ≠ .sHit) : LatchInv P t.block := by
  obtain ⟨hbus, hpin, hlow, hhigh⟩ := h.operands_eq
  constructor
  case probe_operands =>
    intro hq
    rw [h.cfg_eq, hbus, hpin, hlow, hhigh]
    exact hi.probe_operands (by rw [ho, hopc hq])
  case hit_status => exact fun hp => absurd hp hs
  case read_addr => intro hp; simp [hp, Phase.inRead] at hr
  case value_present => intro hp; simp [hp, Phase.inRead] at hr
  case probe_pair => simp [hr]

/-- A read phase's answer goes to `LAST_RSTATUS`, and is a result unless it is `NACK_CODE` (R197). -/
theorem gotRead_present {r : ReadAnswer} {w : World} (hr : r.status ≠ P.nackCode) :
    (gotRead P s r w).block.res.present = true ∧ (gotRead P s r w).block.res.lastRead = r.status := by
  simp [gotRead, hr]

theorem SeqRow.keeps_latches (hp : s.block.seq.ph = ph) (ho : s.block.seq.opc = opc) (hi : LatchInv P s.block)
    (h : SeqRow P s ph opc t) : LatchInv P t.block := by
  have outside := h.keeps_latches_outside_read ho hi
  cases h with
  | unanswered => exact hi.requesting
  | waits => exact hi
  | hit st w _ _ hst =>
    constructor
    case hit_status => exact fun _ => hst
    all_goals simp [probed, Phase.inRead, ho]
  | miss | hitReported =>
    refine outside (fun h => ho ▸ h) ?_ ?_ <;>
      simp only [State.scanAdvance_seq] <;> split <;> simp [Phase.inRead]
  | written _ st w =>
    constructor
    case read_addr => exact fun _ => rfl
    case probe_operands => exact hi.probe_operands
    case probe_pair => exact fun hq _ => hi.probe_pair hq (by rw [hp]; rfl)
    all_goals simp
  | present r w _ hr =>
    constructor
    case probe_operands => exact hi.probe_operands
    case probe_pair => exact fun hq _ => hi.probe_pair hq (by rw [hp]; rfl)
    case value_present =>
      obtain ⟨h1, h2⟩ := gotRead_present (s := s) (w := w) hr
      exact fun _ => ⟨h1, h2 ▸ hr⟩
    all_goals simp
  | nextPair b _ _ _ hb =>
    obtain ⟨addr, reg, ha, hg, rfl⟩ := Block.loadPair_some hb
    constructor
    case probe_operands => exact hi.probe_operands
    case probe_pair => exact fun _ _ => ⟨ha, hg⟩
    all_goals simp
  | drive _ _ _ _ _ _ hrow =>
    rcases hrow with ⟨-, -, rfl⟩ | ⟨-, -, rfl⟩ <;> exact outside (fun h => ho ▸ h) rfl (by simp)
  | scanFlushed | pinFault | resetDone | readDone | probeDone => exact outside (by simp) rfl (by simp)
  | _ => exact outside (fun h => ho ▸ h) rfl (by simp)

/-- A sequencer step from a legal state ends in a legal state. -/
theorem BlockInv.seqStep (hi : BlockInv P s.block) (h : seqStep P s = .next t) : BlockInv P t.block := by
  obtain ⟨-, hr⟩ := seqStep_next h
  exact
    { phase := hr.keeps_phase hi.phase
      flags := hr.keeps_flags hi.phase hi.flags
      desc := hr.keeps_desc hi.desc
      cfg := by rw [hr.cfg_eq]; exact hi.cfg
      counters := hr.keeps_counters rfl rfl hi.counters
      latches := hr.keeps_latches rfl rfl hi.latches }

end Sys2Proof.Machine
end

section
/-! PROOFS. Legal states: the reset state is legal, every step of a legal machine answers a next state and keeps it legal,
and so does every run from reset (R20 to R58, R230). -/

namespace Sys2Proof.Machine

variable {P : Params} {s t : State} {b c : Block}

/-! ## Block reset (R58, R260) -/

/-- The block after a block reset is legal, under every value of the parameters. -/
theorem Block.reset_legal (P : Params) : BlockInv P (Block.reset P) where
  phase := .of_idle rfl rfl rfl
  flags := by constructor <;> simp [Block.reset]
  desc := .of_invalid rfl (.inl rfl)
  cfg := ⟨by simp [Block.reset], by simp [Block.reset]⟩
  counters := .of_idle rfl rfl (by simp [Block.reset])
  latches := .of_idle rfl rfl

/-- Settles O34: the reset block is idle, with an empty configuration. -/
theorem resetIsLegal : Obligations.ResetIsLegal := Block.reset_legal Config.params

/-! ## Host writes (R36, R37, R41, R55, R110) -/

/-- The request of a phase does not depend on the flags. -/
theorem Block.requesting_withFlags (P : Params) (b : Block) (f : Flags) :
    Block.requesting P { b with flags := f } = { b.requesting P with flags := f } := by
  cases hp : b.seq.ph <;> simp [Block.requesting, hp]

/-- A change of the flags that leaves `BUSY` alone and the flags exclusive keeps the block legal. -/
theorem BlockInv.withFlags (h : BlockInv P b) {f : Flags} (hf : FlagInv f) (hb : f.busy = b.flags.busy) :
    BlockInv P { b with flags := f } where
  phase := ⟨h.phase.phase_of_operation, by rw [← h.phase.busy_iff, ← hb]⟩
  flags := hf
  desc :=
    { valid_outstanding := h.desc.valid_outstanding
      valid_populated := fun hv => by rw [Block.requesting_withFlags, h.desc.valid_populated hv]
      len_zero_or_one := h.desc.len_zero_or_one }
  cfg := h.cfg
  counters := ⟨h.counters.a_le, h.counters.a_probed, h.counters.a_end, h.counters.k_le, h.counters.i_le,
    h.counters.j_le, h.counters.in_read, h.counters.at_sweep_end⟩
  latches := ⟨h.latches.read_addr, h.latches.probe_operands, h.latches.probe_pair, h.latches.hit_status,
    h.latches.value_present⟩

theorem BlockInv.overrun (h : BlockInv P s.block) : BlockInv P s.overrun.block := h.withFlags h.flags.overran rfl

/-- The descriptor of an idle block is not valid. -/
theorem BlockInv.idle_desc_invalid (h : BlockInv P b) (hb : b.flags.busy = false) : b.desc.valid = false :=
  h.desc.invalid (by rw [(h.phase.idle hb).2]; simp [Phase.collaborator])

/-- What the new configuration is does not matter to an idle block, as long as its list lengths are legal. -/
theorem BlockInv.withCfg (h : BlockInv P b) (hb : b.flags.busy = false) {g : Cfg} (hg : CfgInv g) :
    BlockInv P { b with cfg := g } :=
  have ⟨ho, hp⟩ := h.phase.idle hb
  { phase := .of_idle hb ho hp
    flags := h.flags
    desc := .of_invalid (h.idle_desc_invalid hb) h.desc.len_zero_or_one
    cfg := hg
    counters := .of_idle ho hp h.counters.a_le
    latches := .of_idle ho hp }

/-- A list length is clamped when it is written (R51, R52). -/
theorem CfgInv.write {g : Cfg} (h : CfgInv g) (v : Word) (r : CfgReg) : CfgInv (g.write P v r) := by
  cases r with
  | naddr => exact ⟨clampLength_le P v, h.nreg_le⟩
  | nreg => exact ⟨h.naddr_le, clampLength_le P v⟩
  | _ => exact ⟨h.naddr_le, h.nreg_le⟩

theorem BlockInv.writeCfg (h : BlockInv P s.block) (v : Word) (r : CfgReg) : BlockInv P (writeCfg P r v s).block := by
  unfold Machine.writeCfg
  split
  · exact h.overrun
  · exact h.withCfg (by simpa using ‹¬s.block.flags.busy = true›) (h.cfg.write v r)

theorem BlockInv.takeIllegal (h : BlockInv P s.block) : BlockInv P s.takeIllegal.block := by
  unfold State.takeIllegal
  split
  · exact h.overrun
  · exact h.withFlags (.illegalTaken (by simpa using ‹¬s.block.flags.busy = true›)) rfl

/-- The block in the first phase of a command just taken: that phase is one of the command's, and an idle block's
descriptor was not valid. -/
theorem BlockInv.of_taken (h : BlockInv P b) (hb : b.flags.busy = false) (hf : c.flags = b.flags.accepted)
    (ho : c.seq.opc ≠ .idle) (hu : c.seq.ph.usedBy c.seq.opc = true) (hd : c.desc = b.desc) (hg : c.cfg = b.cfg)
    (hc : CounterInv c) (hl : LatchInv P c) : BlockInv P c where
  phase := ⟨hu, by simp [hf, ho]⟩
  flags := hf ▸ .accepted _
  desc := .of_invalid (hd ▸ h.idle_desc_invalid hb) (hd ▸ h.desc.len_zero_or_one)
  cfg := hg ▸ h.cfg
  counters := hc
  latches := hl

/-- What each command loads at acceptance is legal in its first phase (R110). -/
theorem BlockInv.load (h : BlockInv P b) (hb : b.flags.busy = false) (i : Instr) :
    BlockInv P (loadOf i { b with flags := b.flags.accepted }) := by
  have ha : b.seq.a.toNat ≤ 128 := h.counters.a_le
  cases i with
  | scan =>
    refine h.of_taken hb rfl (by simp [loadOf]) rfl rfl rfl ?_ ?_ <;>
      constructor <;> simp [loadOf, Phase.inRead, Phase.endsSweep]
  | devrst | rdreg | probe =>
    refine h.of_taken hb rfl (by simp [loadOf]) rfl rfl rfl ?_ ?_ <;>
      constructor <;> simp [loadOf, ha, Phase.inRead, Phase.endsSweep]

theorem BlockInv.takeCommand (h : BlockInv P s.block) (i : Instr) : BlockInv P (s.takeCommand (loadOf i)).block := by
  cases hb : s.block.flags.busy with
  | true => rw [State.takeCommand_busy _ hb]; exact h.overrun
  | false => rw [State.takeCommand_idle _ hb]; exact h.load hb i

/-! ## Steps and runs -/

@[simp] theorem hostRead_block (off : Nat) (s : State) : (hostRead off s).block = s.block := by
  obtain ⟨v, n, h⟩ := hostRead_spec off s
  rw [h]

/-- Every turn from a legal state ends in a legal state. -/
theorem BlockInv.turn {turn : HostTurn} (h : BlockInv P s.block) (hr : TurnRow P s turn t) : BlockInv P t.block := by
  cases hr with
  | sequencer t hs => exact h.seqStep hs
  | hostRead off => rw [hostRead_block]; exact h
  | command off v i => exact h.takeCommand i
  | illegal => exact h.takeIllegal
  | configure off v r => exact h.writeCfg v r
  | ignored => exact h
  | reset => exact Block.reset_legal P

/-- Settles O35: every turn keeps the block legal, and taking a turn from the list does not touch the block. -/
theorem stepKeepsLegal : Obligations.StepKeepsLegal := by
  intro s t hi h
  obtain ⟨turn, s₀, hr, ⟨-, -, rfl⟩ | ⟨rest, -, rfl⟩⟩ := step_next h
  · exact hi.turn hr
  · exact BlockInv.turn (s := s.withTurns rest) hi hr

/-- A legal sequencer answers a next state: its counters are in range, so no phase strays (R26 to R30). -/
theorem BlockInv.seqStep_isNext (h : BlockInv P s.block) : ∃ t, Machine.seqStep P s = .next t := by
  refine Machine.seqStep_isNext h.phase.phase_of_operation h.counters.a_probed fun hp _ hn hm => ?_
  have ho : s.block.seq.opc = .probe := by
    have hu := h.phase.phase_of_operation
    rw [hp] at hu
    cases ho : s.block.seq.opc <;> simp [ho, Phase.usedBy] at hu ⊢
  have hi := h.counters.i_le ho
  have hj := h.counters.j_le ho
  have hni := h.cfg.naddr_le
  have hnj := h.cfg.nreg_le
  constructor <;> bv_omega

/-- A host write answers a next state. -/
theorem hostWrite_isNext (P : Params) (off : Nat) (v : Word) (s : State) : ∃ t, hostWrite P off v s = .next t := by
  rcases hostWrite_cases P off v s with ⟨-, h⟩ | ⟨c, -, h⟩ | h
  · rcases writeCmd_cases v s with ⟨i, -, hw⟩ | ⟨e, -, hw⟩
    · exact ⟨_, h.trans (hw.trans (exec_eq i s))⟩
    · exact ⟨_, h.trans hw⟩
  · exact ⟨_, h⟩
  · exact ⟨_, h⟩

theorem BlockInv.takeTurn_isNext (h : BlockInv P s.block) (turn : HostTurn) : ∃ t, takeTurn P turn s = .next t := by
  cases turn with
  | seq => exact h.seqStep_isNext
  | read off => exact ⟨_, rfl⟩
  | write off v => exact hostWrite_isNext P off v s
  | reset carriedOut => exact ⟨_, rfl⟩

/-- Settles O36: whichever turn is next, a legal machine's step answers a next state. -/
theorem legalStatesStep : Obligations.LegalStatesStep := by
  intro s hi
  rcases stepWith_eq Config.params s with ⟨-, h⟩ | ⟨turn, rest, -, h⟩
  · obtain ⟨t, ht⟩ := hi.takeTurn_isNext .seq
    exact ⟨t, h.trans ht⟩
  · obtain ⟨t, ht⟩ := BlockInv.takeTurn_isNext (s := s.withTurns rest) hi turn
    exact ⟨t, h.trans ht⟩

theorem run_succ {n : Nat} (h : step s = .next t) : run (n + 1) s = run n t := by
  simp [run, h]

/-- A run of a legal machine never stops, and ends in a legal state. -/
theorem BlockInv.run (n : Nat) {s : State} (hi : BlockInv Config.params s.block) :
    ∃ t, Machine.run n s = .next t ∧ BlockInv Config.params t.block := by
  induction n generalizing s with
  | zero => exact ⟨s, rfl, hi⟩
  | succ n ih =>
    obtain ⟨u, hu⟩ := legalStatesStep s hi
    rw [run_succ hu]
    exact ih (stepKeepsLegal s u hi hu)

/-- Settles O37: every run from reset stays legal, and legal flags exclude each other. -/
theorem everyRunKeepsFlagsExclusive : Obligations.EveryRunKeepsFlagsExclusive := by
  intro w n
  obtain ⟨t, ht, hi⟩ := BlockInv.run n (s := { block := State.reset.block, world := w }) resetIsLegal
  have hf := hi.flags
  exact ⟨t, ht, hf.done_pinfault, hf.done_illegal, hf.pinfault_illegal, hf.busy_alone⟩

end Sys2Proof.Machine
end

section
/-! PROOFS. The port call of a sequencer step (R26, R74, R75), and the descriptor between two steps (R23, R137). -/

namespace Sys2Proof.Machine

variable {P : Params} {s t : State} {ph : Phase} {opc : Opc} {b : Block}

/-! ## One port call per step -/

/-- The phases with a port call are those with a collaborator behind it (R26's table). -/
theorem Block.portCall_eq_none_iff : b.portCall P = none ↔ b.seq.ph.collaborator = none := by
  cases hp : b.seq.ph <;> simp [Block.portCall, Phase.collaborator, hp]

theorem World.serves_trace {k : Collaborator} {w v : World} (h : w.serves k = some v) : v.trace = w.trace := by
  obtain ⟨-, -, -, -, -, ht, -, -⟩ := World.serves_frame h
  exact ht

/-- A row makes no call, or waits for the answer to its call, or has the one event that answers it (R26, R75, R277). -/
theorem SeqRow.call_cases (hp : s.block.seq.ph = ph) (h : SeqRow P s ph opc t) :
    (ph.collaborator = none ∧ t.world = s.world) ∨
    (∃ k, ph.collaborator = some k ∧ s.silent k ∧ t = { s with block := s.block.requesting P }) ∨
    ∃ e : PortEvent, s.block.portCall P = some e.call ∧ t.world.trace = s.world.trace ++ [e] := by
  have event : ∀ (e : PortEvent) (w : World), s.block.portCall P = some e.call → w.trace = s.world.trace →
      t.world = w.record e →
      ∃ e : PortEvent, s.block.portCall P = some e.call ∧ t.world.trace = s.world.trace ++ [e] :=
    fun e w hc hw ht => ⟨e, hc, by rw [ht, World.record_trace, hw]⟩
  cases h with
  | waits | probeDone | sweepEnds | rowEnds => exact .inl ⟨rfl, rfl⟩
  | nextPair b _ _ _ hb =>
    obtain ⟨addr, reg, -, -, rfl⟩ := Block.loadPair_some hb
    exact .inl ⟨rfl, rfl⟩
  | unanswered _ _ k _ _ hk hl => exact .inr (.inl ⟨k, hk, hl, rfl⟩)
  | hit st w _ hw | miss st w _ hw | written _ st w _ hw =>
    obtain ⟨-, ht, -, -⟩ := World.nextWriteAnswer_frame hw
    exact .inr (.inr (event _ w (by rw [Block.portCall, hp]; rfl) ht rfl))
  | readDone r w hw | absent r w hw | present r w hw =>
    obtain ⟨-, ht, -, -⟩ := World.nextReadAnswer_frame hw
    exact .inr (.inr (event _ w (by rw [Block.portCall, hp]; rfl) ht rfl))
  | drive level _ _ _ w _ hrow hw =>
    obtain ⟨-, ht, -, -⟩ := World.nextPinAnswer_frame hw
    refine .inr (.inr (event _ w ?_ ht rfl))
    rcases hrow with ⟨rfl, rfl, -⟩ | ⟨rfl, rfl, -⟩ <;> rw [Block.portCall, hp] <;> rfl
  | pinFault level _ _ w _ hrow hw =>
    obtain ⟨-, ht, -, -⟩ := World.nextPinAnswer_frame hw
    refine .inr (.inr (event _ w ?_ ht rfl))
    rcases hrow with ⟨rfl, rfl⟩ | ⟨rfl, rfl⟩ <;> rw [Block.portCall, hp] <;> rfl
  | waitedLow _ w _ hw | resetDone w hw | toSweeps w hw =>
    exact .inr (.inr (event _ w (by rw [Block.portCall, hp]; rfl) (World.serves_trace hw) rfl))
  | hitReported w _ hw | scanFlushed w hw | valueReported w hw | marked w hw | flushed w hw =>
    exact .inr (.inr (event _ w (by rw [Block.portCall, hp]; rfl) (World.serves_trace hw) rfl))

/-- Settles O24: the case a row falls into, read against the phase's port call. -/
theorem oneCallPerStep : Obligations.OneCallPerStep := by
  intro P s t h
  have hnone := Block.portCall_eq_none_iff (P := P) (b := s.block)
  rcases SeqRow.call_cases rfl (seqStep_next h).2 with ⟨hk, hw⟩ | ⟨k, hk, hl, ht⟩ | ⟨e, he, ht⟩
  · exact ⟨fun _ => hw, fun c hc => by simp [hnone.mpr hk] at hc⟩
  · exact ⟨fun hc => by simp [hnone.mp hc] at hk, fun c _ => .inl ⟨k, hk, hl, ht⟩⟩
  · refine ⟨fun hc => by simp [he] at hc, fun c hc => .inr ⟨e, ?_, ht⟩⟩
    simpa [he] using hc

/-! ## The descriptor is valid only while its request is not answered -/

/-- `DESC_VALID` is 1 only in a bus phase, and only because the bus does not answer (R23, R137). -/
def State.ValidWhileUnanswered (s : State) : Prop :=
  s.block.desc.valid = true → s.block.seq.ph.collaborator = some .bus ∧ s.silent .bus

/-- What a turn keeps that does not touch the descriptor, the sequencer or the bus. -/
theorem State.ValidWhileUnanswered.congr (h : s.ValidWhileUnanswered) (hd : t.block.desc = s.block.desc)
    (hq : t.block.seq = s.block.seq) (hl : t.world.left .bus = s.world.left .bus) : t.ValidWhileUnanswered := by
  intro hv
  rw [hd] at hv
  rw [hq, State.silent, hl]
  exact h hv

theorem State.ValidWhileUnanswered.of_invalid (h : s.block.desc.valid = false) : s.ValidWhileUnanswered := by
  intro hv
  simp [h] at hv

theorem State.ValidWhileUnanswered.invalid (h : s.ValidWhileUnanswered)
    (hc : s.block.seq.ph.collaborator ≠ some .bus) : s.block.desc.valid = false := by
  by_contra hv
  exact hc (h (by simpa using hv)).1

/-- A row populates the descriptor only to wait for the bus. -/
theorem State.ValidWhileUnanswered.row (h : s.ValidWhileUnanswered)
    (hr : SeqRow P s s.block.seq.ph s.block.seq.opc t) : t.ValidWhileUnanswered := by
  rcases hr.desc_cases with ⟨rfl, k, hk, hl⟩ | ⟨hv, -⟩ | ⟨hc, hd⟩
  · by_cases hbus : s.block.seq.ph.collaborator = some .bus
    · obtain rfl : k = .bus := by simpa [hk] using hbus
      exact fun _ => ⟨by simpa using hk, hl⟩
    · rw [Block.requesting_eq hbus]; exact h
  · exact .of_invalid hv
  · exact .of_invalid (by rw [hd]; exact h.invalid hc)

/-- Taking a command loads no descriptor. -/
@[simp] theorem loadOf_desc (i : Instr) (b : Block) : (loadOf i b).desc = b.desc := by cases i <;> rfl

theorem State.ValidWhileUnanswered.takeCommand (h : s.ValidWhileUnanswered) (hp : PhaseInv s.block) (i : Instr) :
    (s.takeCommand (loadOf i)).ValidWhileUnanswered := by
  cases hb : s.block.flags.busy with
  | true => rw [State.takeCommand_busy _ hb]; exact h.congr rfl rfl rfl
  | false =>
    have hv : s.block.desc.valid = false := h.invalid (by rw [(hp.idle hb).2]; simp [Phase.collaborator])
    rw [State.takeCommand_idle _ hb]
    exact .of_invalid (by simpa using hv)

theorem State.ValidWhileUnanswered.turn {turn : HostTurn} (h : s.ValidWhileUnanswered) (hp : PhaseInv s.block)
    (hr : TurnRow P s turn t) : t.ValidWhileUnanswered := by
  cases hr with
  | sequencer t hs => exact h.row (seqStep_next hs).2
  | hostRead off =>
    obtain ⟨v, n, he⟩ := hostRead_spec off s
    exact h.congr (by rw [he]) (by rw [he]) (by rw [he]; rfl)
  | command off v i => exact h.takeCommand hp i
  | illegal =>
    unfold State.takeIllegal
    split <;> exact h.congr rfl rfl rfl
  | configure off v r =>
    unfold writeCfg
    split <;> exact h.congr rfl rfl rfl
  | ignored => exact h
  | reset => exact .of_invalid rfl

/-- Settles O44: every turn keeps `State.ValidWhileUnanswered`, and reset has it. -/
theorem descriptorValidOnlyWhileUnanswered : Obligations.DescriptorValidOnlyWhileUnanswered := by
  refine ⟨rfl, fun s t hp hi h => ?_⟩
  obtain ⟨turn, s₀, hr, ⟨-, -, rfl⟩ | ⟨rest, -, rfl⟩⟩ := step_next h
  · exact State.ValidWhileUnanswered.turn hi hp hr
  · exact State.ValidWhileUnanswered.turn (s := s.withTurns rest) hi hp hr

end Sys2Proof.Machine
end

section
/-! PROOFS. The host register space: the register map (R40), commands written to `CMD` (R41, R78), `STATUS` (R42), the
result latches (R43 to R45), the configuration registers (R46 to R55), and the block reset's values (R58). -/

namespace Sys2Proof.Machine

variable {P : Params} {s t : State} {rest : List HostTurn}

/-! ## The register map (R40) -/

/-- A register is found only at its own offset. -/
theorem offset_of_hostRegAt {off : Nat} {r : HostReg} (h : hostRegAt off = some r) : off = r.offset := by
  unfold hostRegAt at h
  split at h
  · simp at h
  · have hq : off = 4 * (off / 4) := by omega
    split at h
    case h_13 =>
      split at h
      · obtain rfl := Option.some.inj h; simp only [HostReg.offset]; omega
      split at h
      · obtain rfl := Option.some.inj h; simp only [HostReg.offset]; omega
      · simp at h
    all_goals obtain rfl := Option.some.inj h; simp only [HostReg.offset]; omega

/-- No register stands at an unmapped offset: its own offset is a multiple of 4 in one of R40's three ranges. -/
theorem HostReg.offset_mapped (r : HostReg) : ¬unmappedOffset r.offset := by
  unfold unmappedOffset
  cases r with
  | cfg c => cases c <;> simp only [HostReg.offset] <;> omega
  | _ => simp [HostReg.offset]

theorem hostRegAt_eq_none_iff (off : Nat) : hostRegAt off = none ↔ unmappedOffset off := by
  constructor
  · intro h
    unfold hostRegAt at h
    split at h
    · exact .inl ‹_›
    · split at h
      case h_13 =>
        split at h
        · simp at h
        split at h
        · simp at h
        simp only [imp_false] at *
        unfold unmappedOffset
        omega
      all_goals simp at h
  · intro hu
    cases h : hostRegAt off with
    | none => rfl
    | some r => exact absurd (offset_of_hostRegAt h ▸ hu) r.offset_mapped

/-! ## A host access as a step (R64, R65) -/

theorem step_read {off : Nat} (h : s.world.host = .read off :: rest) :
    step s = .next (hostRead off (s.withTurns rest)) := step_turn h

theorem step_write {off : Nat} {v : Word} (h : s.world.host = .write off v :: rest) :
    step s = hostWrite Config.params off v (s.withTurns rest) := step_turn h

/-- A read of a latch by a host of an idle block returns the latch. -/
theorem State.readLatch_idle (off : Nat) (v : Word) (h : s.block.flags.busy = false) :
    s.readLatch off v = s.returnRead off v := by
  simp [State.readLatch, h]

/-- A read of a latch while busy is a draw, and counts as one. -/
theorem State.readLatch_busy (off : Nat) (v : Word) (h : s.block.flags.busy = true) :
    s.readLatch off v = { s with world := { s.world with
      reads := s.world.reads ++ [(off, Config.busyReadValue s.world.readDraws)]
      readDraws := s.world.readDraws + 1 } } := by
  simp [State.readLatch, h, State.returnRead]

/-- Settles O14: `hostRegAt` and `HostReg.offset` are inverse to each other, and `CMD` is found at 0. -/
theorem registerMap : Obligations.RegisterMap := by
  refine ⟨fun r off => ⟨offset_of_hostRegAt, ?found⟩, hostRegAt_eq_none_iff, fun s rest h => step_read h⟩
  case found => rintro rfl; exact hostRegAt_offset r

/-! ## Commands (R41, R78) -/

/-- A step whose turn writes a legal word to `CMD` is `exec` of its command, with that turn over. -/
theorem step_command {w : Word} {i : Instr} (h : s.world.host = .write HostReg.cmd.offset w :: rest)
    (hd : decodeWord w = .ok i) : step s = exec i (s.withTurns rest) := by
  rw [step_write h, hostWrite, hostRegAt_offset]
  simp only [writeCmd, hd]

/-- A table word is read as the command it decodes to. -/
theorem decodeWord_tableWord {nbits n : Nat} {i : Instr} (h : decodeTableWord nbits n = some i) :
    decodeWord (tableWord nbits n) = .ok i := by
  unfold decodeTableWord at h
  cases hd : decodeWord (tableWord nbits n) with
  | ok j => rw [hd] at h; exact congrArg _ (Option.some.inj h)
  | error e => rw [hd] at h; simp [Except.toOption] at h

/-- Settles O7: the turn `withFetchWord` places is such a write, and with it over the machine is as before. -/
theorem stepRunsDecodedCommand : Obligations.StepRunsDecodedCommand :=
  ⟨fun _ _ _ _ h hd _ => step_command h hd,
   fun s n _ h => step_command (s := s.withFetchWord 32 n) rfl (decodeWord_tableWord h)⟩

/-! ## `STATUS` (R42) -/

theorem getLsbD_bit (b : Bool) (n : Nat) : (bit b).getLsbD n = (decide (n = 0) && b) := by
  simp [bit]

/-- The bits of `STATUS`: the six flags, and zero above. -/
theorem Flags.statusWord_bits (f : Flags) :
    f.statusWord.getLsbD 0 = f.busy ∧ f.statusWord.getLsbD 1 = f.done ∧ f.statusWord.getLsbD 2 = f.pinfault ∧
      f.statusWord.getLsbD 3 = f.stage ∧ f.statusWord.getLsbD 4 = f.illegal ∧ f.statusWord.getLsbD 5 = f.overrun ∧
      ∀ n, 6 ≤ n → f.statusWord.getLsbD n = false := by
  refine ⟨?_, ?_, ?_, ?_, ?_, ?_, fun n hn => ?above⟩
  case above =>
    simp only [Flags.statusWord, BitVec.getLsbD_append]
    iterate 6 rw [if_neg (by omega)]
    exact BitVec.getLsbD_zero
  all_goals simp only [Flags.statusWord, BitVec.getLsbD_append, getLsbD_bit]; rfl

/-- Settles O11: the word read is `Flags.statusWord`, whose bits are the flags; a write there is ignored. -/
theorem statusShowsFlags : Obligations.StatusShowsFlags := by
  intro s rest
  exact ⟨fun h => ⟨s.block.flags.statusWord, step_read h, s.block.flags.statusWord_bits⟩, fun v h => step_write h⟩

/-! ## The result latches (R43 to R45) -/

/-- `RDRES` as a sum: `PRESENT` is worth 256 (R43). -/
theorem Results.rdresWord_eq (r : Results) :
    r.rdresWord = (if r.present then 0x100#32 else 0#32) + r.value.zeroExtend 32 := by
  have hv := r.value.isLt
  apply BitVec.eq_of_toNat_eq
  have h : r.rdresWord.toNat = (bit r.present).toNat * 256 + r.value.toNat := by
    change (0#23 ++ bit r.present ++ r.value).toNat = _
    rw [toNat_append_eq, toNat_append_eq]; simp
  rw [h]
  cases r.present <;> simp [bit] <;> omega

/-- Settles O12: an idle read returns the latch, a busy one a draw. -/
theorem resultLatchReads : Obligations.ResultLatchReads := by
  intro s rest
  refine ⟨fun hb => ⟨fun h => ?_, fun h => ?_, fun h => ?_⟩, fun hb off hoff h => ?busy⟩
  case busy =>
    refine ⟨Config.busyReadValue s.world.readDraws, (step_read h).trans (congrArg _ ?_)⟩
    rcases hoff with rfl | rfl | rfl <;> exact State.readLatch_busy (s := s.withTurns rest) _ _ hb
  · rw [← Results.rdresWord_eq]
    exact (step_read h).trans (congrArg _ (State.readLatch_idle (s := s.withTurns rest) _ _ hb))
  · exact (step_read h).trans (congrArg _ (State.readLatch_idle (s := s.withTurns rest) _ _ hb))
  · exact (step_read h).trans (congrArg _ (State.readLatch_idle (s := s.withTurns rest) _ _ hb))

/-! ## The configuration registers (R46 to R55) -/

/-- Cutting a value to a field and showing the field is masking it. -/
theorem extend_truncate_eq_and (v mask : Word) {n : Nat} (hn : n ≤ 32) (hm : mask.toNat = 2 ^ n - 1) :
    ((v.truncate n : BitVec n).zeroExtend 32) = v &&& mask := by
  apply BitVec.eq_of_toNat_eq
  rw [BitVec.toNat_and, hm, Nat.and_two_pow_sub_one_eq_mod]
  have hlt : v.toNat % 2 ^ n < 2 ^ 32 :=
    lt_of_lt_of_le (Nat.mod_lt _ (by positivity)) (Nat.pow_le_pow_right (by omega) hn)
  rw [BitVec.toNat_setWidth, BitVec.toNat_setWidth, Nat.mod_eq_of_lt hlt]

/-- A list length as the host reads it: five bits of the value written, at most 16 (R51, R52). -/
theorem extend_clampLength (P : Params) (v : Word) :
    (clampLength P v).zeroExtend 32 = if 16 < (v &&& 0x1F).toNat then 16 else v &&& 0x1F := by
  have hc := clampLength_toNat P v
  have hm : (v &&& 0x1F).toNat = v.toNat % 32 := by
    rw [BitVec.toNat_and]; exact Nat.and_two_pow_sub_one_eq_mod v.toNat 5
  apply BitVec.eq_of_toNat_eq
  split
  · simp [hc]; omega
  · rw [hm]; simp [hc]; omega

/-- A performed write stores the value cut to the register's field. -/
theorem Cfg.read_write_same (P : Params) (g : Cfg) (v : Word) (c : CfgReg) :
    (g.write P v c).read c = storedValue v c := by
  cases c with
  | bus | pin => exact extend_truncate_eq_and v 0xFF (n := 8) (by omega) rfl
  | lowMs | highMs => exact extend_truncate_eq_and v 0x3FF (n := 10) (by omega) rfl
  | repeatCount => exact extend_truncate_eq_and v 0xFFFF (n := 16) (by omega) rfl
  | naddr | nreg => exact extend_clampLength P v
  | addr i =>
    rw [storedValue, ← extend_truncate_eq_and v 0x7F (n := 7) (by omega) rfl]
    simp [Cfg.write, Cfg.read]
  | reg j =>
    rw [storedValue, ← extend_truncate_eq_and v 0xFF (n := 8) (by omega) rfl]
    simp [Cfg.write, Cfg.read]

/-- A performed write changes no other register. -/
theorem Cfg.read_write_other (P : Params) (g : Cfg) (v : Word) {c d : CfgReg} (h : d ≠ c) :
    (g.write P v c).read d = g.read d := by
  cases c with
  | addr i =>
    cases d with
    | addr j =>
      have hij : i.val ≠ j.val := fun he => h (by rw [Fin.ext he])
      simp [Cfg.write, Cfg.read, Vector.getElem_set_ne _ _ hij]
    | _ => rfl
  | reg i =>
    cases d with
    | reg j =>
      have hij : i.val ≠ j.val := fun he => h (by rw [Fin.ext he])
      simp [Cfg.write, Cfg.read, Vector.getElem_set_ne _ _ hij]
    | _ => rfl
  | _ => cases d <;> simp_all [Cfg.write, Cfg.read]

theorem writeCfg_busy (c : CfgReg) (v : Word) (h : s.block.flags.busy = true) : writeCfg P c v s = s.overrun := by
  simp [writeCfg, h]

theorem writeCfg_idle (c : CfgReg) (v : Word) (h : s.block.flags.busy = false) :
    writeCfg P c v s = { s with block := { s.block with cfg := s.block.cfg.write P v c } } := by
  simp [writeCfg, h]

/-- A host write at a configuration register's offset is a configuration write. -/
theorem step_writeCfg {c : CfgReg} {v : Word} (h : s.world.host = .write (HostReg.cfg c).offset v :: rest) :
    step s = .next (writeCfg Config.params c v (s.withTurns rest)) := by
  rw [step_write h, hostWrite, hostRegAt_offset]

theorem step_readCfg {c : CfgReg} (h : s.world.host = .read (HostReg.cfg c).offset :: rest) :
    step s = .next ((s.withTurns rest).returnRead (HostReg.cfg c).offset (s.block.cfg.read c)) := by
  rw [step_read h, hostRead, hostRegAt_offset]; rfl

/-- Taking a command writes no configuration register (R110). -/
theorem exec_cfg {i : Instr} (h : exec i s = .next t) : t.block.cfg = s.block.cfg := by
  rw [exec_eq] at h
  obtain rfl : s.takeCommand (loadOf i) = t := by simpa using h
  unfold State.takeCommand
  split
  · rfl
  · cases i <;> rfl

/-- Settles O10: host writes from `writeCfg`'s two cases, the block's own steps from `exec_cfg` and `SeqRow.cfg_eq`. -/
theorem configurationWrites : Obligations.ConfigurationWrites := by
  refine ⟨fun c v s rest h => ⟨fun hb => ?dropped, fun hb => ?performed⟩, fun i s t h => exec_cfg h,
    fun s t h => (seqStep_next h).2.cfg_eq, fun c s rest h => step_readCfg h⟩
  case dropped =>
    rw [step_writeCfg h, writeCfg_busy (s := s.withTurns rest) c v hb]; rfl
  case performed =>
    refine ⟨s.block.cfg.write Config.params v c, ?_, Cfg.read_write_same _ _ v c,
      fun d hd => Cfg.read_write_other _ _ v hd⟩
    rw [step_writeCfg h, writeCfg_idle (s := s.withTurns rest) c v hb]; rfl

/-! ## The values a block reset loads (R58, R260) -/

/-- Settles O16: a step that takes a reset turn is the block reset, which leaves the world alone where nothing is carried
out. -/
theorem resetValues : Obligations.ResetValues :=
  ⟨rfl, fun _ _ _ h => ⟨_, stepWith_reset Config.params h, rfl⟩, fun _ _ h => stepWith_reset Config.params h⟩

end Sys2Proof.Machine
end

section
/-! PROOFS. Host accesses cannot disturb an operation (R55, R64, R79, R235). What they may change is collected in a
`Disturbance`; a sequencer step does the same to a disturbed state as to the state itself, and an access to a busy block
only changes the disturbance. -/

namespace Sys2Proof.Machine

/-- What host accesses to a busy block may change: `OVERRUN`, what the host has read, and the turns to come. -/
structure Disturbance where
  overrun : Bool
  host : List HostTurn
  reads : List (Nat × Word)
  readDraws : Nat

variable {P : Params} {d : Disturbance} {s t u : State}

def World.disturbed (d : Disturbance) (w : World) : World :=
  { w with host := d.host, reads := d.reads, readDraws := d.readDraws }

def State.disturbed (d : Disturbance) (s : State) : State :=
  { block := { s.block with flags := { s.block.flags with overrun := d.overrun } }, world := s.world.disturbed d }

/-- The disturbance a state already shows. -/
def State.disturbance (s : State) : Disturbance :=
  { overrun := s.block.flags.overrun, host := s.world.host, reads := s.world.reads, readDraws := s.world.readDraws }

theorem State.disturbed_disturbed (d e : Disturbance) (s : State) : (s.disturbed d).disturbed e = s.disturbed e := rfl

/-- A state and its disturbed form are what the statement of noninterference compares. -/
theorem agreeButHost_disturbed (d : Disturbance) (s : State) : AgreeButHost s (s.disturbed d) := ⟨rfl, rfl⟩

/-! ## A sequencer step does not see a disturbance -/

/-- The same step with its next state changed by `f`. -/
def mapNext (f : State → State) : StepResult → StepResult
  | .next t => .next (f t)
  | .fault r => .fault r
  | .refused r => .refused r

theorem World.serves_disturbed (k : Collaborator) (w : World) :
    (w.disturbed d).serves k = (w.serves k).map (World.disturbed d) := by
  have hl : (w.disturbed d).left k = w.left k := by cases k <;> rfl
  simp only [World.serves, hl]
  split
  · rfl
  · rfl
  · cases k <;> rfl

theorem World.nextWriteAnswer_disturbed (w : World) :
    (w.disturbed d).nextWriteAnswer = w.nextWriteAnswer.map fun a => (a.1, a.2.disturbed d) := by
  have hd : ∀ v : World, (v.disturbed d).drawWrite = (v.drawWrite.1, v.drawWrite.2.disturbed d) := by
    intro v; simp only [World.drawWrite, World.disturbed]; split <;> rfl
  simp [World.nextWriteAnswer, World.serves_disturbed, Function.comp_def, hd]

theorem World.nextReadAnswer_disturbed (w : World) :
    (w.disturbed d).nextReadAnswer = w.nextReadAnswer.map fun a => (a.1, a.2.disturbed d) := by
  have hd : ∀ v : World, (v.disturbed d).drawRead = (v.drawRead.1, v.drawRead.2.disturbed d) := by
    intro v; simp only [World.drawRead, World.disturbed]; split <;> rfl
  simp [World.nextReadAnswer, World.serves_disturbed, Function.comp_def, hd]

theorem World.nextPinAnswer_disturbed (w : World) :
    (w.disturbed d).nextPinAnswer = w.nextPinAnswer.map fun a => (a.1, a.2.disturbed d) := by
  have hd : ∀ v : World, (v.disturbed d).drawPin = (v.drawPin.1, v.drawPin.2.disturbed d) := by
    intro v; simp only [World.drawPin, World.disturbed]; split <;> rfl
  simp [World.nextPinAnswer, World.serves_disturbed, Function.comp_def, hd]

/-- A step with one request, whose collaborator and whose next state do not see a disturbance. -/
theorem State.await_disturbed {o o' : Option State} {next : State → State} (ho : o' = o.map (State.disturbed d))
    (hn : ∀ t, next (t.disturbed d) = (next t).disturbed d) (s : State) :
    (s.disturbed d).await o' next = mapNext (State.disturbed d) (s.await o next) := by
  subst ho
  cases o with
  | none => rfl
  | some t => exact congrArg _ (hn t)

theorem State.awaitWrite_disturbed (stop : Bool) {next : State → State}
    (hn : ∀ t, next (t.disturbed d) = (next t).disturbed d) (s : State) :
    (s.disturbed d).await ((s.disturbed d).busWrite P stop) next =
      mapNext (State.disturbed d) (s.await (s.busWrite P stop) next) := by
  refine State.await_disturbed ?_ hn s
  have h : (s.disturbed d).world.nextWriteAnswer = _ := World.nextWriteAnswer_disturbed s.world
  simp only [State.busWrite, h, Option.map_map]
  rfl

theorem State.awaitRead_disturbed (stop : Bool) {next : State → State}
    (hn : ∀ t, next (t.disturbed d) = (next t).disturbed d) (s : State) :
    (s.disturbed d).await ((s.disturbed d).busRead P stop) next =
      mapNext (State.disturbed d) (s.await (s.busRead P stop) next) := by
  refine State.await_disturbed ?_ hn s
  have h : (s.disturbed d).world.nextReadAnswer = _ := World.nextReadAnswer_disturbed s.world
  simp only [State.busRead, h, Option.map_map]
  rfl

theorem State.reportThen_disturbed (r : Record) {next : State → State}
    (hn : ∀ t, next (t.disturbed d) = (next t).disturbed d) (s : State) :
    (s.disturbed d).reportThen r next = mapNext (State.disturbed d) (s.reportThen r next) := by
  refine State.await_disturbed ?_ hn s
  have h : (s.disturbed d).world.sinkTakes = _ := World.serves_disturbed .sink s.world
  simp only [State.report, h, Option.map_map]
  rfl

theorem State.delayThen_disturbed (ms : Millis) {next : State → State}
    (hn : ∀ t, next (t.disturbed d) = (next t).disturbed d) (s : State) :
    (s.disturbed d).delayThen ms next = mapNext (State.disturbed d) (s.delayThen ms next) := by
  refine State.await_disturbed ?_ hn s
  have h : (s.disturbed d).world.serves .delay = _ := World.serves_disturbed .delay s.world
  simp only [State.delayMs, h, Option.map_map]
  rfl

theorem seqDrive_disturbed (level : Bool) (next : Phase) (s : State) :
    seqDrive level next (s.disturbed d) = mapNext (State.disturbed d) (seqDrive level next s) := by
  have h : (s.disturbed d).world.nextPinAnswer = _ := World.nextPinAnswer_disturbed s.world
  simp only [seqDrive, State.pinDrive, h, Option.map_map]
  cases s.world.nextPinAnswer with
  | none => rfl
  | some a => obtain ⟨r, w⟩ := a; cases r <;> rfl

/-- A choice whose condition does not see a disturbance, between moves that do not see one. -/
theorem ite_disturbed {p p' : Prop} [Decidable p] [Decidable p'] {a a' b b' : State} (hp : p' ↔ p)
    (ha : a' = a.disturbed d) (hb : b' = b.disturbed d) :
    (if p' then a' else b') = State.disturbed d (if p then a else b) := by
  rw [apply_ite (State.disturbed d)]
  exact if_congr hp ha hb

theorem seqScanProbe_disturbed (s : State) :
    seqScanProbe P (s.disturbed d) = mapNext (State.disturbed d) (seqScanProbe P s) := by
  unfold seqScanProbe
  rw [apply_ite (mapNext (State.disturbed d))]
  refine if_congr Iff.rfl rfl ?_
  refine State.awaitWrite_disturbed true ?_ { s with block := s.block.populateProbe }
  exact fun t => ite_disturbed Iff.rfl rfl rfl

theorem seqScanHit_disturbed (s : State) :
    seqScanHit P (s.disturbed d) = mapNext (State.disturbed d) (seqScanHit P s) := by
  unfold seqScanHit
  rw [apply_ite (mapNext (State.disturbed d))]
  refine if_congr Iff.rfl rfl (State.reportThen_disturbed _ ?_ s)
  exact fun t => rfl

theorem seqRegRead_disturbed (s : State) :
    seqRegRead P (s.disturbed d) = mapNext (State.disturbed d) (seqRegRead P s) := by
  refine State.awaitRead_disturbed true ?_ { s with block := s.block.populateRead P }
  exact fun u => ite_disturbed Iff.rfl (ite_disturbed Iff.rfl rfl rfl) rfl

theorem seqProbeNext_disturbed (s : State) :
    seqProbeNext (s.disturbed d) = mapNext (State.disturbed d) (seqProbeNext s) := by
  have hl : (s.disturbed d).block.loadPair = s.block.loadPair.map fun b =>
      { b with flags := { b.flags with overrun := d.overrun } } := by
    simp only [Block.loadPair, State.disturbed]
    split <;> simp_all
  unfold seqProbeNext
  rw [hl]
  simp only [apply_ite (mapNext (State.disturbed d))]
  refine if_congr Iff.rfl rfl (if_congr Iff.rfl rfl (if_congr Iff.rfl rfl ?_))
  cases s.block.loadPair <;> rfl

theorem phaseStep_disturbed (s : State) (ph : Phase) :
    phaseStep P (s.disturbed d) ph = mapNext (State.disturbed d) (phaseStep P s ph) := by
  cases ph with
  | idle => rfl
  | sProbe => exact seqScanProbe_disturbed s
  | sHit => exact seqScanHit_disturbed s
  | dLow | dHigh => exact seqDrive_disturbed _ _ s
  | dWaitLow =>
    refine State.delayThen_disturbed _ ?_ s
    exact fun t => rfl
  | dWaitHigh =>
    refine State.delayThen_disturbed _ ?_ s
    exact fun t => ite_disturbed Iff.rfl rfl rfl
  | gWrite =>
    refine State.awaitWrite_disturbed false ?_ { s with block := s.block.populateWrite }
    exact fun t => rfl
  | gRead => exact seqRegRead_disturbed s
  | pNext => exact seqProbeNext_disturbed s
  | sFlush | pValue | pMark | pFlush =>
    refine State.reportThen_disturbed _ ?_ s
    exact fun t => rfl

theorem seqStep_disturbed (s : State) :
    seqStep P (s.disturbed d) = mapNext (State.disturbed d) (seqStep P s) := by
  unfold seqStep
  rw [apply_ite (mapNext (State.disturbed d)), ← phaseStep_disturbed]
  rfl

/-- A sequencer step of a disturbed state that answers a next state without the disturbance. -/
theorem seqStep_disturbed_next (h : seqStep P s = .next t) : seqStep P (s.disturbed d) = .next (t.disturbed d) := by
  rw [seqStep_disturbed, h]; rfl

/-- A sequencer step takes no turn of the host's: its next state shows the disturbance its state showed. -/
theorem seqStep_host (h : seqStep P s = .next t) : t.world.host = s.world.host := by
  have ht : seqStep P s = .next (t.disturbed s.disturbance) := seqStep_disturbed_next (d := s.disturbance) h
  have he : t = t.disturbed s.disturbance := by simpa [h] using ht
  rw [he]; rfl

/-! ## An access to a busy block only changes the disturbance (R55, R64, R235) -/

theorem hostWrite_busy (off : Nat) (v : Word) (hb : s.block.flags.busy = true) :
    hostWrite P off v s = .next s.overrun ∨ hostWrite P off v s = .next s := by
  rcases hostWrite_cases P off v s with ⟨-, h⟩ | ⟨c, -, h⟩ | h
  · left
    rcases writeCmd_cases v s with ⟨i, -, hw⟩ | ⟨e, -, hw⟩
    · rw [h, hw, exec_eq, State.takeCommand_busy _ hb]
    · rw [h, hw]; simp [State.takeIllegal, hb]
  · exact .inl (by rw [h, writeCfg_busy c v hb])
  · exact .inr h

theorem access_busy {turn : HostTurn} (ha : turn.isAccess = true) (hb : s.block.flags.busy = true) :
    ∃ e : Disturbance, takeTurn P turn s = .next (s.disturbed e) ∧ e.host = s.world.host := by
  cases turn with
  | read off =>
    obtain ⟨v, n, h⟩ := hostRead_spec off s
    exact ⟨{ s.disturbance with reads := s.world.reads ++ [(off, v)], readDraws := n }, congrArg _ h, rfl⟩
  | write off v =>
    rcases hostWrite_busy off v hb with h | h
    · exact ⟨{ s.disturbance with overrun := true }, h, rfl⟩
    · exact ⟨s.disturbance, h, rfl⟩
  | seq => simp [HostTurn.isAccess] at ha
  | reset carriedOut => simp [HostTurn.isAccess] at ha

/-! ## Runs -/

/-- A run of at least one step that answers a next state begins with a step that does. -/
theorem run_succ_next {n : Nat} (h : run (n + 1) s = .next u) : ∃ t, step s = .next t ∧ run n t = .next u := by
  unfold run at h
  split at h
  · exact ⟨_, ‹_›, h⟩
  · simp at h
  · simp at h

/-- An idle block with a silent host stays as it is (R246). -/
theorem run_idle (ho : s.block.seq.opc = .idle) (hp : s.block.seq.ph = .idle) (hh : s.world.host = []) (n : Nat) :
    run n s = .next s := by
  induction n with
  | zero => rfl
  | succ n ih =>
    have hs : step s = .next s := by simp [step_silent hh, seqStep, ho, hp, Phase.usedBy, phaseStep]
    rw [run_succ hs, ih]

/-- A run under a silent host that is busy at its end was busy at its start, since no command came. -/
theorem busy_of_run_busy {n : Nat} (hi : PhaseInv s.block) (hh : s.world.host = []) (h : run n s = .next u)
    (hu : u.block.flags.busy = true) : s.block.flags.busy = true := by
  by_contra hb
  have hb' : s.block.flags.busy = false := by simpa using hb
  obtain ⟨ho, hp⟩ := hi.idle hb'
  rw [run_idle ho hp hh n] at h
  obtain rfl : s = u := by simpa using h
  exact hb hu

/-- The simulation: the run of the disturbed machine through all its turns, against the run of the undisturbed one through
the sequencer's. -/
theorem run_disturbed {turns : List HostTurn} (hreset : ∀ h ∈ turns, h.isReset = false) (hi : PhaseInv s.block)
    (hh : s.world.host = []) (hd : d.host = turns) (h : run (turns.countP fun h => !h.isAccess) s = .next u)
    (hu : u.block.flags.busy = true) :
    ∃ e : Disturbance, e.host = [] ∧ run turns.length (s.disturbed d) = .next (u.disturbed e) := by
  induction turns generalizing s d with
  | nil =>
    obtain rfl : s = u := by simpa [run] using h
    exact ⟨d, hd, rfl⟩
  | cons turn rest ih =>
    have hrest : ∀ h ∈ rest, h.isReset = false := fun x hx => hreset x (List.mem_cons_of_mem _ hx)
    have hstep : step (s.disturbed d) = takeTurn Config.params turn (s.disturbed { d with host := rest }) :=
      step_turn (s := s.disturbed d) hd
    cases ha : turn.isAccess with
    | true =>
      rw [List.countP_cons_of_neg (by simp [ha])] at h
      have hb : s.block.flags.busy = true := busy_of_run_busy hi hh h hu
      obtain ⟨e, he, hhost⟩ := access_busy (P := Config.params) (s := s.disturbed { d with host := rest }) ha hb
      rw [he, State.disturbed_disturbed] at hstep
      obtain ⟨e', he', hrun⟩ := ih hrest hi hh hhost h
      exact ⟨e', he', by rw [List.length_cons, run_succ hstep, hrun]⟩
    | false =>
      obtain rfl : turn = .seq := by
        have hr := hreset turn List.mem_cons_self
        cases turn <;> simp [HostTurn.isAccess, HostTurn.isReset] at ha hr ⊢
      rw [List.countP_cons_of_pos (by simp [HostTurn.isAccess])] at h
      obtain ⟨t, ht, hrun⟩ := run_succ_next h
      rw [step_silent hh] at ht
      have hstep' : step (s.disturbed d) = .next (t.disturbed { d with host := rest }) :=
        hstep.trans (seqStep_disturbed_next ht)
      obtain ⟨e, he, hrun'⟩ := ih hrest ((seqStep_next ht).2.keeps_phase hi) ((seqStep_host ht).trans hh)
        (d := { d with host := rest }) rfl hrun
      exact ⟨e, he, by rw [List.length_cons, run_succ hstep', hrun']⟩

/-- Settles O42: the machine is its own undisturbed form, disturbed by the turns to come. -/
theorem hostAccessesCannotDisturb : Obligations.HostAccessesCannotDisturb := by
  intro turns s u hi hturns hreset h hu
  obtain ⟨e, he, hrun⟩ :=
    run_disturbed (d := s.disturbance) (s := { s with world := { s.world with host := [] } }) hreset hi rfl hturns h hu
  exact ⟨u.disturbed e, hrun, he, agreeButHost_disturbed e u⟩

end Sys2Proof.Machine
end

section
/-! PROOFS. Host accesses as memory operations (R62 to R64): accesses to offsets with no register, and what any host access
can change. -/

namespace Sys2Proof.Machine

variable {P : Params} {s t : State} {rest : List HostTurn}

theorem hostRead_unmapped {off : Nat} (h : unmappedOffset off) (s : State) : hostRead off s = s.returnRead off 0 := by
  rw [hostRead, (hostRegAt_eq_none_iff off).mpr h]

theorem hostWrite_unmapped {off : Nat} (h : unmappedOffset off) (P : Params) (v : Word) (s : State) :
    hostWrite P off v s = .next s := by
  rw [hostWrite, (hostRegAt_eq_none_iff off).mpr h]

/-- Settles O13: an unmapped offset has no register, so a read there returns 0 and a write is ignored. -/
theorem unmappedOffsetsInert : Obligations.UnmappedOffsetsInert := by
  intro s off rest hu
  exact ⟨fun h => by rw [step_read h, hostRead_unmapped hu]; rfl,
    fun v h => by rw [step_write h, hostWrite_unmapped hu]; rfl⟩

/-- A write that is neither a command nor a configuration write is ignored (R64). -/
theorem hostWrite_ignored {off : Nat} (hcmd : hostRegAt off ≠ some .cmd) (hcfg : ∀ c, hostRegAt off ≠ some (.cfg c))
    (P : Params) (v : Word) (s : State) : hostWrite P off v s = .next s := by
  rcases hostWrite_cases P off v s with ⟨h, -⟩ | ⟨c, h, -⟩ | h
  · exact absurd h hcmd
  · exact absurd h (hcfg c)
  · exact h

/-- A configuration write changes at most the configuration of an idle block and `OVERRUN` of a busy one (R55, R64). -/
theorem writeCfg_changes (P : Params) (c : CfgReg) (v : Word) (s : State) :
    ∃ cfg o, writeCfg P c v s = { s with block := { s.block with
        cfg := cfg, flags := { s.block.flags with overrun := o } } } ∧
      (s.block.flags.busy = true → cfg = s.block.cfg ∧ o = true) ∧
      (s.block.flags.busy = false → o = s.block.flags.overrun) := by
  cases hb : s.block.flags.busy with
  | true => exact ⟨s.block.cfg, true, writeCfg_busy c v hb, by simp⟩
  | false => exact ⟨s.block.cfg.write P v c, s.block.flags.overrun, writeCfg_idle c v hb, by simp⟩

/-- Settles O15: a read only adds to what the host has read; a write is ignored, or is a configuration write. -/
theorem hostAccessSideEffects : Obligations.HostAccessSideEffects := by
  intro s rest off
  refine ⟨fun h => ?read, fun v h => ⟨fun hcmd hcfg => ?ignored, fun c hc => ?configuration⟩⟩
  case read =>
    obtain ⟨v, n, hr⟩ := hostRead_spec off (s.withTurns rest)
    exact ⟨v, n, (step_read h).trans (congrArg _ hr)⟩
  case ignored => exact (step_write h).trans (hostWrite_ignored hcmd hcfg _ v _)
  case configuration =>
    obtain rfl := offset_of_hostRegAt hc
    obtain ⟨cfg, o, hw, hbusy, hidle⟩ := writeCfg_changes Config.params c v (s.withTurns rest)
    exact ⟨cfg, o, (step_writeCfg h).trans (congrArg _ hw), hbusy, hidle⟩

end Sys2Proof.Machine
end

section
/-! PROOFS. The trace of port events: how a turn extends it (R74, R75), and what it says of the buses between two requests
(R56, R77, R80). -/

namespace Sys2Proof.Machine

variable {P : Params} {s t : State} {ph : Phase} {opc : Opc}

/-! ## A step adds at most one event (R74, R75) -/

/-- A row adds nothing to the trace, or the one event that answers its phase's port call. -/
theorem SeqRow.trace_grows (hp : s.block.seq.ph = ph) (h : SeqRow P s ph opc t) :
    ∃ l : List PortEvent, l.length ≤ 1 ∧ t.world.trace = s.world.trace ++ l ∧
      ∀ e ∈ l, s.block.portCall P = some e.call := by
  rcases h.call_cases hp with ⟨-, hw⟩ | ⟨k, -, -, rfl⟩ | ⟨e, he, ht⟩
  · exact ⟨[], by simp, by simp [hw], by simp⟩
  · exact ⟨[], by simp, by simp, by simp⟩
  · exact ⟨[e], by simp, ht, by simpa using he⟩

/-- A block reset adds at most the event of the request it carries out (R261). -/
theorem carriedOutWorld_trace_grows (P : Params) (s : State) :
    ∃ l : List PortEvent, l.length ≤ 1 ∧ (carriedOutWorld P s).trace = s.world.trace ++ l := by
  unfold carriedOutWorld
  split
  case h_1 t hs =>
    obtain ⟨l, hl, ht, -⟩ := (seqStep_next hs).2.trace_grows rfl
    exact ⟨l, hl, ht⟩
  all_goals exact ⟨[], by simp, by simp⟩

@[simp] theorem hostRead_trace (off : Nat) (s : State) : (hostRead off s).world.trace = s.world.trace := by
  obtain ⟨v, n, h⟩ := hostRead_spec off s
  rw [h]

@[simp] theorem writeCfg_world (P : Params) (c : CfgReg) (v : Word) (s : State) :
    (writeCfg P c v s).world = s.world := by
  obtain ⟨cfg, o, h, -, -⟩ := writeCfg_changes P c v s
  rw [h]

theorem TurnRow.trace_grows {turn : HostTurn} (h : TurnRow P s turn t) :
    ∃ l : List PortEvent, l.length ≤ 1 ∧ t.world.trace = s.world.trace ++ l := by
  cases h with
  | sequencer t hs =>
    obtain ⟨l, hl, ht, -⟩ := (seqStep_next hs).2.trace_grows rfl
    exact ⟨l, hl, ht⟩
  | reset carriedOut =>
    cases carriedOut with
    | true => exact carriedOutWorld_trace_grows P s
    | false => exact ⟨[], by simp, by simp [blockReset]⟩
  | _ => exact ⟨[], by simp, by simp⟩

/-- Settles O41: taking a turn from the list adds no event, and the turn adds at most one. -/
theorem traceGrowsByOneEvent : Obligations.TraceGrowsByOneEvent := by
  intro s t h
  obtain ⟨turn, s₀, hr, ⟨-, -, rfl⟩ | ⟨rest, -, rfl⟩⟩ := step_next h
  · exact hr.trace_grows
  · exact hr.trace_grows

/-! ## What a turn does to the buses (R56, R66) -/

/-- What a turn other than a block reset does to the buses: nothing while no read is due; nothing while one is due; the
write that makes a read due, of the device and bus now latched; or the read that was due. -/
inductive BusMove (s t : State) : Prop where
  | free (l : List PortEvent) : s.block.seq.ph ≠ .gRead → t.block.seq.ph ≠ .gRead →
      t.world.trace = s.world.trace ++ l → (∀ e ∈ l, ∀ bus, heldAfter bus false e = false) → BusMove s t
  | due : s.block.seq.ph = .gRead → t.block.seq.ph = .gRead → t.block.latch.bus = s.block.latch.bus →
      t.block.desc.addr = s.block.desc.addr → t.world.trace = s.world.trace → BusMove s t
  | holds (len data timeout st) : s.block.seq.ph ≠ .gRead → t.block.seq.ph = .gRead →
      t.world.trace = s.world.trace ++ [.bw t.block.latch.bus t.block.desc.addr len data timeout false st] → BusMove s t
  | releases (timeout rs rx) : s.block.seq.ph = .gRead → t.block.seq.ph ≠ .gRead →
      t.world.trace = s.world.trace ++ [.br s.block.latch.bus s.block.desc.addr 1 timeout true rs rx] → BusMove s t

/-- Only the write phase of a register read makes a request with `stop = 0`; the bus requests of the other phases, a probe's
and the read phase's, release the bus (R66, R163, R193, R196). -/
theorem Block.portCall_leaves_free {b : Block} {e : PortEvent} (hw : b.seq.ph ≠ .gWrite)
    (he : b.portCall P = some e.call) (bus : Byte) : heldAfter bus false e = false := by
  cases e with
  | bw | br => cases hp : b.seq.ph <;> simp_all [Block.portCall, PortEvent.call, heldAfter]
  | _ => rfl

/-- A row that neither starts in a phase of a register read's two requests nor ends in the second does nothing to a bus. -/
theorem SeqRow.busMove_free (hp : s.block.seq.ph = ph) (h : SeqRow P s ph opc t) (hw : ph ≠ .gWrite) (hr : ph ≠ .gRead)
    (ht : t.block.seq.ph ≠ .gRead) : BusMove s t := by
  obtain ⟨l, -, hl, hcall⟩ := h.trace_grows hp
  exact .free l (hp ▸ hr) ht hl fun e he bus => Block.portCall_leaves_free (hp ▸ hw) (hcall e he) bus

/-- A turn that leaves the sequencer, the latches, the descriptor's address and the trace as they are. -/
theorem BusMove.of_unchanged (hq : t.block.seq = s.block.seq) (hl : t.block.latch = s.block.latch)
    (hd : s.block.seq.ph = .gRead → t.block.desc.addr = s.block.desc.addr) (ht : t.world.trace = s.world.trace) :
    BusMove s t := by
  by_cases hp : s.block.seq.ph = .gRead
  · exact .due hp (hq ▸ hp) (by rw [hl]) (hd hp) ht
  · exact .free [] hp (hq ▸ hp) (by simp [ht]) (by simp)

theorem SeqRow.busMove (hp : s.block.seq.ph = ph) (h : SeqRow P s ph opc t) : BusMove s t := by
  have free := h.busMove_free hp
  cases h with
  | written _ st w _ hw =>
    obtain ⟨-, ht, -, -⟩ := World.nextWriteAnswer_frame hw
    exact .holds 1 [s.block.latch.reg] P.timeoutUnits st (by simp [hp]) rfl (congrArg (· ++ [_]) ht)
  | readDone r w hw | absent r w hw | present r w hw =>
    obtain ⟨-, ht, -, -⟩ := World.nextReadAnswer_frame hw
    exact .releases P.timeoutUnits r.status r.rx hp (by simp) (congrArg (· ++ [_]) ht)
  | unanswered =>
    exact .of_unchanged (by simp) (by simp) (fun hr => by simp [Block.requesting, hr]) rfl
  | miss | hitReported => exact free (by simp) (by simp) (by simp only [State.scanAdvance_seq]; split <;> simp)
  | drive _ _ _ _ _ _ hrow =>
    rcases hrow with ⟨-, rfl, rfl⟩ | ⟨-, rfl, rfl⟩ <;> exact free (by simp) (by simp) (by simp)
  | pinFault _ _ _ _ _ hrow => rcases hrow with ⟨-, rfl⟩ | ⟨-, rfl⟩ <;> exact free (by simp) (by simp) (by simp)
  | waits => exact free (by simp) (by simp) (by simp [hp])
  | _ => exact free (by simp) (by simp) (by simp)

/-- A command starts with a phase other than the read phase (R110). -/
theorem loadOf_ph_ne_gRead (i : Instr) (b : Block) : (loadOf i b).seq.ph ≠ .gRead := by
  cases i <;> simp [loadOf]

/-- A command is taken by an idle block, which has no read due, and has none due at its start. -/
theorem BusMove.takeCommand (hi : PhaseInv s.block) (i : Instr) : BusMove s (s.takeCommand (loadOf i)) := by
  cases hb : s.block.flags.busy with
  | true => rw [State.takeCommand_busy _ hb]; exact .of_unchanged rfl rfl (fun _ => rfl) rfl
  | false =>
    obtain ⟨-, hp⟩ := hi.idle hb
    rw [State.takeCommand_idle _ hb]
    exact .free [] (by simp [hp]) (loadOf_ph_ne_gRead i _) (by simp) (by simp)

theorem TurnRow.busMove {turn : HostTurn} (hi : PhaseInv s.block) (hr : turn.isReset = false)
    (h : TurnRow P s turn t) : BusMove s t := by
  cases h with
  | sequencer t hs => exact (seqStep_next hs).2.busMove rfl
  | command off v i => exact .takeCommand hi i
  | hostRead off => exact .of_unchanged (by simp) (by simp) (by simp) (by simp)
  | illegal => unfold State.takeIllegal; split <;> exact .of_unchanged rfl rfl (fun _ => rfl) rfl
  | configure => unfold writeCfg; split <;> exact .of_unchanged rfl rfl (fun _ => rfl) rfl
  | ignored => exact .of_unchanged rfl rfl (fun _ => rfl) rfl
  | reset => simp [HostTurn.isReset] at hr

/-- Taking a turn from the list moves no bus. -/
theorem BusMove.of_withTurns {turns : List HostTurn} (h : BusMove (s.withTurns turns) t) : BusMove s t := by
  cases h with
  | free l hs ht hl hfree => exact .free l hs ht hl hfree
  | due hs ht hbus haddr hl => exact .due hs ht hbus haddr hl
  | holds len data timeout st hs ht hl => exact .holds len data timeout st hs ht hl
  | releases timeout rs rx hs ht hl => exact .releases timeout rs rx hs ht hl

theorem step_busMove (hi : PhaseInv s.block) (hreset : ∀ c rest, s.world.host ≠ .reset c :: rest)
    (h : step s = .next t) : BusMove s t := by
  obtain ⟨turn, s₀, hr, ⟨-, rfl, rfl⟩ | ⟨rest, hturn, rfl⟩⟩ := step_next h
  · exact hr.busMove hi rfl
  · refine (TurnRow.busMove (s := s.withTurns rest) hi ?_ hr).of_withTurns
    cases turn with
    | reset c => exact absurd hturn (hreset c rest)
    | _ => rfl

/-! ## A bus is held exactly while a read is due (R80) -/

@[simp] theorem heldBy_concat (trace : List PortEvent) (e : PortEvent) (bus : Byte) :
    heldBy (trace ++ [e]) bus = heldAfter bus (heldBy trace bus) e := by
  simp [heldBy]

/-- A free bus stays free through events that leave it free. -/
theorem heldBy_append_free {trace l : List PortEvent} {bus : Byte} (h : heldBy trace bus = false)
    (hl : ∀ e ∈ l, heldAfter bus false e = false) : heldBy (trace ++ l) bus = false := by
  induction l generalizing trace with
  | nil => simpa using h
  | cons e l ih =>
    rw [List.forall_mem_cons] at hl
    have he : heldBy (trace ++ [e]) bus = false := by rw [heldBy_concat, h, hl.1]
    simpa using ih he hl.2

theorem HeldInv.free (h : HeldInv s) (hp : s.block.seq.ph ≠ .gRead) (bus : Byte) : heldBy s.world.trace bus = false := by
  by_contra hb
  exact hp ((h bus).mp (by simpa using hb)).1

theorem HeldInv.busMove (h : HeldInv s) (hm : BusMove s t) : HeldInv t := by
  intro bus
  cases hm with
  | free l hs ht hl hfree =>
    have hb := heldBy_append_free (h.free hs bus) fun e he => hfree e he bus
    simp [hl, hb, ht]
  | due hs ht hbus _ hl => simpa [hl, hbus, ht, hs] using h bus
  | holds len data timeout st hs ht hl => simp [hl, h.free hs bus, heldAfter, ht]
  | releases timeout rs rx hs ht hl =>
    have hb : s.block.latch.bus ≠ bus → heldBy s.world.trace bus = false := fun hne => by
      by_contra hheld
      exact hne ((h bus).mp (by simpa using hheld)).2
    simpa [hl, ht, heldAfter] using hb

/-- Settles O38: every step but a block reset is a `BusMove`, which keeps `HeldInv`; an idle block has no read due. -/
theorem busHeldOnlyInsideRead : Obligations.BusHeldOnlyInsideRead := by
  refine ⟨fun s t hi h hreset hs => h.busMove (step_busMove hi hreset hs), fun s hi h ho => h.free ?_⟩
  simp [Phase.usedBy_idle (ho ▸ hi.phase_of_operation)]

/-! ## The read follows the write that holds the bus (R77) -/

/-- What stands after a write with `stop = 0` to the device `addr` of the bus `bus`: nothing yet, with that device's read
due, or that read. -/
def State.ReadNext (s : State) (bus : Byte) (addr : DevAddr) (after : List PortEvent) : Prop :=
  (after = [] ∧ s.block.seq.ph = .gRead ∧ s.block.latch.bus = bus ∧ s.block.desc.addr = addr) ∨
    ∃ timeout rs rx rest, after = .br bus addr 1 timeout true rs rx :: rest

/-- `ReadFollowsHold` asks `State.ReadNext` after every write with `stop = 0`. -/
theorem readFollowsHold_iff : ReadFollowsHold s ↔ ∀ before after bus addr len data timeout st,
    s.world.trace = before ++ .bw bus addr len data timeout false st :: after → s.ReadNext bus addr after := Iff.rfl

/-- More events after a write keep what follows it, where the new ones are the read it may still wait for. -/
theorem State.ReadNext.append {bus : Byte} {addr : DevAddr} {after l : List PortEvent} (h : s.ReadNext bus addr after)
    (hdue : s.block.seq.ph = .gRead → t.ReadNext s.block.latch.bus s.block.desc.addr l) :
    t.ReadNext bus addr (after ++ l) := by
  rcases h with ⟨rfl, hp, rfl, rfl⟩ | ⟨timeout, rs, rx, rest, rfl⟩
  · exact hdue hp
  · exact .inr ⟨timeout, rs, rx, rest ++ l, rfl⟩

/-- A longer trace has the writes with `stop = 0` it had, and those among the new events. -/
theorem ReadFollowsHold.append {l : List PortEvent} (h : ReadFollowsHold s) (hl : t.world.trace = s.world.trace ++ l)
    (hdue : s.block.seq.ph = .gRead → t.ReadNext s.block.latch.bus s.block.desc.addr l)
    (hnew : ∀ before after bus addr len data timeout st,
      l = before ++ .bw bus addr len data timeout false st :: after → t.ReadNext bus addr after) :
    ReadFollowsHold t := by
  rw [readFollowsHold_iff]
  intro before after bus addr len data timeout st ht
  rw [hl, List.append_eq_append_iff] at ht
  rcases ht with ⟨m, -, hm⟩ | ⟨m, hs, hm⟩
  · exact hnew m after _ _ _ _ _ _ hm
  · cases m with
    | nil => exact hnew [] after _ _ _ _ _ _ hm.symm
    | cons e m =>
      obtain ⟨rfl, rfl⟩ := List.cons.inj hm
      exact State.ReadNext.append (h _ _ _ _ _ _ _ _ hs) hdue

/-- A list of one event has one place for a write: the event itself, with nothing after it. -/
theorem singleton_eq_append_cons {α : Type} {e x : α} {before after : List α} (h : [e] = before ++ x :: after) :
    x = e ∧ after = [] := by
  cases before <;> simp_all

theorem ReadFollowsHold.busMove (h : ReadFollowsHold s) (hm : BusMove s t) : ReadFollowsHold t := by
  cases hm with
  | free l hs ht hl hfree =>
    refine h.append hl (fun hp => absurd hp hs) fun before after bus _ _ _ _ _ he => ?_
    have := hfree _ (he ▸ List.mem_append_right _ List.mem_cons_self) bus
    simp [heldAfter] at this
  | due hs ht hbus haddr hl =>
    exact h.append (l := []) (by simp [hl]) (fun _ => .inl ⟨rfl, ht, hbus, haddr⟩) (by simp)
  | holds len data timeout st hs ht hl =>
    refine h.append hl (fun hp => absurd hp hs) fun before after _ _ _ _ _ _ he => ?_
    obtain ⟨hwrite, rfl⟩ := singleton_eq_append_cons he
    injection hwrite with hbus haddr
    exact .inl ⟨rfl, ht, hbus.symm, haddr.symm⟩
  | releases timeout rs rx hs ht hl =>
    refine h.append hl (fun _ => .inr ⟨timeout, rs, rx, [], rfl⟩) fun before after _ _ _ _ _ _ he => ?_
    obtain ⟨hwrite, -⟩ := singleton_eq_append_cons he
    simp at hwrite

/-- Settles O39: every step but a block reset is a `BusMove`, which keeps `ReadFollowsHold`. -/
theorem readFollowsEveryHold : Obligations.ReadFollowsEveryHold :=
  fun _ _ hi h hreset hs => h.busMove (step_busMove hi hreset hs)

end Sys2Proof.Machine
end

section
/-! PROOFS. The command words: decoding and encoding are inverse to each other (R102 to R107, R111), which words are
illegal (R112), and the words the assembler's lines stand for (R115). All go through `Instr.FieldsIn`, what the formats say
of the fields of a command's word. -/

namespace Sys2Proof

variable {w : Word} {i : Instr}

/-! ## The fields of a command's word (R102 to R106) -/

/-- `w` has the opcode of the command, zeros in its reserved fields, and its operands in their fields (R102 to R106). -/
def Instr.FieldsIn (w : Word) : Instr → Prop
  | .scan bus => field w 31 28 = 0x1#4 ∧ field w 27 8 = 0#20 ∧ field w 7 0 = bus
  | .devrst pin lowMs highMs =>
    field w 31 28 = 0x2#4 ∧ field w 27 20 = pin ∧ field w 19 10 = lowMs ∧ field w 9 0 = highMs
  | .rdreg bus addr reg =>
    field w 31 28 = 0x3#4 ∧ (field w 27 24 = 0#4 ∧ field w 15 15 = 0#1) ∧
      field w 23 16 = bus ∧ field w 14 8 = addr ∧ field w 7 0 = reg
  | .probe => field w 31 28 = 0x4#4 ∧ field w 27 0 = 0#28

/-- A word that decodes to a command has its fields, along the decoder's branches. -/
theorem fieldsIn_of_decodeWord (h : decodeWord w = .ok i) : i.FieldsIn w := by
  unfold decodeWord at h
  split at h
  case isTrue hop =>
    split at h <;> cases h
    case isTrue hz => exact ⟨hop, hz, rfl⟩
  split at h
  case isTrue hop =>
    cases h
    exact ⟨hop, rfl, rfl, rfl⟩
  split at h
  case isTrue hop =>
    split at h <;> cases h
    case isTrue hz => exact ⟨hop, hz, rfl, rfl, rfl⟩
  split at h
  case isTrue hop =>
    split at h <;> cases h
    case isTrue hz => exact ⟨hop, hz⟩
  case isFalse => cases h

/-- A word with the fields of a command decodes to it. -/
theorem Instr.FieldsIn.decodeWord_eq (h : i.FieldsIn w) : decodeWord w = .ok i := by
  cases i with
  | scan =>
    obtain ⟨hop, hz, rfl⟩ := h
    simp [decodeWord, hop, hz]
  | devrst =>
    obtain ⟨hop, rfl, rfl, rfl⟩ := h
    simp [decodeWord, hop]
  | rdreg =>
    obtain ⟨hop, hz, rfl, rfl, rfl⟩ := h
    simp [decodeWord, hop, hz]
  | probe =>
    obtain ⟨hop, hz⟩ := h
    simp [decodeWord, hop, hz]

/-- The decoder answers the one command whose fields the word has. -/
theorem decodeWord_eq_ok_iff : decodeWord w = .ok i ↔ i.FieldsIn w :=
  ⟨fieldsIn_of_decodeWord, Instr.FieldsIn.decodeWord_eq⟩

/-- The word of a command has its fields. -/
theorem Instr.fieldsIn_encode (i : Instr) : i.FieldsIn (encode i) := by
  cases i with
  | scan bus =>
    have h := encode_scan_toNat bus
    have hb := bus.isLt
    refine ⟨field_eq ?_, field_eq ?_, field_eq ?_⟩ <;> simp <;> omega
  | devrst pin lowMs highMs =>
    have h := encode_devrst_toNat pin lowMs highMs
    have hp := pin.isLt
    have hl := lowMs.isLt
    have hh := highMs.isLt
    refine ⟨field_eq ?_, field_eq ?_, field_eq ?_, field_eq ?_⟩ <;> simp <;> omega
  | rdreg bus addr reg =>
    have h := encode_rdreg_toNat bus addr reg
    have hb := bus.isLt
    have ha := addr.isLt
    have hr := reg.isLt
    refine ⟨field_eq ?_, ⟨field_eq ?_, field_eq ?_⟩, field_eq ?_, field_eq ?_, field_eq ?_⟩ <;> simp <;> omega
  | probe => exact ⟨rfl, rfl⟩

/-- A field's value as arithmetic (R106). -/
theorem value_of_field {hi lo : Nat} {v : BitVec (hi - lo + 1)} (h : field w hi lo = v) :
    w.toNat / 2 ^ lo % 2 ^ (hi - lo + 1) = v.toNat := by
  rw [← field_toNat, h]

/-- The fields of a command cover all 32 bits, so a word that has them is the command's word. -/
theorem Instr.FieldsIn.encode_eq (h : i.FieldsIn w) : encode i = w := by
  apply BitVec.eq_of_toNat_eq
  have hw := w.isLt
  cases i with
  | scan bus =>
    obtain ⟨hop, hz, hbus⟩ := h
    have hop := value_of_field hop
    have hz := value_of_field hz
    have hbus := value_of_field hbus
    rw [encode_scan_toNat]
    simp at hop hz hbus
    omega
  | devrst pin lowMs highMs =>
    obtain ⟨hop, hpin, hlow, hhigh⟩ := h
    have hop := value_of_field hop
    have hpin := value_of_field hpin
    have hlow := value_of_field hlow
    have hhigh := value_of_field hhigh
    rw [encode_devrst_toNat]
    simp at hop hpin hlow hhigh
    omega
  | rdreg bus addr reg =>
    obtain ⟨hop, ⟨hz, hz'⟩, hbus, haddr, hreg⟩ := h
    have hop := value_of_field hop
    have hz := value_of_field hz
    have hz' := value_of_field hz'
    have hbus := value_of_field hbus
    have haddr := value_of_field haddr
    have hreg := value_of_field hreg
    rw [encode_rdreg_toNat]
    simp at hop hz hz' hbus haddr hreg
    omega
  | probe =>
    obtain ⟨hop, hz⟩ := h
    have hop := value_of_field hop
    have hz := value_of_field hz
    rw [encode_probe_toNat]
    simp at hop hz
    omega

/-- Settles O1: the word of a command has the command's fields. -/
theorem decodeInvertsEncode : Obligations.DecodeInvertsEncode :=
  fun i _ => decodeWord_eq_ok_iff.mpr i.fieldsIn_encode

/-- Settles O2: a word that decodes to a command has its fields, and they cover the word. -/
theorem encodeInvertsDecode : Obligations.EncodeInvertsDecode :=
  fun _ _ h => (decodeWord_eq_ok_iff.mp h).encode_eq

/-! ## The rows of the match and mask table (R107) -/

/-- A field of a masked word is the masked field. -/
theorem field_and (w m : Word) (hi lo : Nat) : field (w &&& m) hi lo = field w hi lo &&& field m hi lo := by
  simp [field, BitVec.extractLsb, BitVec.extractLsb'_and]

/-- Where the mask covers a field, a word that matches has the pattern's field (R107). -/
theorem field_of_masked {m v : Word} {hi lo : Nat} (hm : field m hi lo = BitVec.allOnes _) (h : w &&& m = v) :
    field w hi lo = field v hi lo := by
  rw [← h, field_and, hm, BitVec.and_allOnes]

theorem scan_masked_iff : w &&& 0xFFFFFF00 = 0x10000000 ↔ decodeWord w = .ok (.scan (field w 7 0)) := by
  rw [decodeWord_eq_ok_iff]
  constructor
  · exact fun h => ⟨field_of_masked rfl h, field_of_masked rfl h, rfl⟩
  · rintro ⟨hop, hz, -⟩
    exact beq_iff_eq.mp (scanRow_matches hop hz)

theorem devrst_masked_iff : w &&& 0xF0000000 = 0x20000000 ↔
    decodeWord w = .ok (.devrst (field w 27 20) (field w 19 10) (field w 9 0)) := by
  rw [decodeWord_eq_ok_iff]
  constructor
  · exact fun h => ⟨field_of_masked rfl h, rfl, rfl, rfl⟩
  · rintro ⟨hop, -⟩
    exact beq_iff_eq.mp (devrstRow_matches hop)

theorem rdreg_masked_iff : w &&& 0xFF008000 = 0x30000000 ↔
    decodeWord w = .ok (.rdreg (field w 23 16) (field w 14 8) (field w 7 0)) := by
  rw [decodeWord_eq_ok_iff]
  constructor
  · exact fun h => ⟨field_of_masked rfl h, ⟨field_of_masked rfl h, field_of_masked rfl h⟩, rfl, rfl, rfl⟩
  · rintro ⟨hop, ⟨hz, hz'⟩, -⟩
    exact beq_iff_eq.mp (rdregRow_matches hop hz hz')

theorem probe_masked_iff : w &&& 0xFFFFFFFF = 0x40000000 ↔ decodeWord w = .ok .probe := by
  rw [decodeWord_eq_ok_iff]
  constructor
  · exact fun h => ⟨field_of_masked rfl h, field_of_masked rfl h⟩
  · intro h
    obtain rfl : encode .probe = w := h.encode_eq
    rfl

/-- A row a word matches has the word's opcode, because every mask covers it (R107). -/
theorem opcode_of_matchesWord {r : EncodingRow} (hr : r ∈ encodingRows) (h : r.matchesWord w = true) :
    field r.pattern 31 28 = field w 31 28 := by
  have hmask : ∀ r ∈ encodingRows, field r.mask 31 28 = BitVec.allOnes _ := by decide
  exact (field_of_masked (hmask r hr) (beq_iff_eq.mp h)).symm

/-- At most one row matches, because no two rows have the same opcode (R107). -/
theorem matching_rows_le_one (w : Word) : (encodingRows.filter fun r => r.matchesWord w).length ≤ 1 := by
  have hopcodes : ∀ op, encodingRows.countP (fun r => field r.pattern 31 28 = op) ≤ 1 := by decide
  calc (encodingRows.filter fun r => r.matchesWord w).length
      = encodingRows.countP fun r => r.matchesWord w := List.countP_eq_length_filter.symm
    _ ≤ encodingRows.countP fun r => field r.pattern 31 28 = field w 31 28 :=
        List.countP_mono_left fun r hr h => decide_eq_true (opcode_of_matchesWord hr h)
    _ ≤ 1 := hopcodes _

/-- Settles O3: each row masks its command's opcode and reserved fields, and the operands are what is left. -/
theorem rowsMatchDecoder : Obligations.RowsMatchDecoder :=
  fun w => ⟨scan_masked_iff, devrst_masked_iff, rdreg_masked_iff, probe_masked_iff, matching_rows_le_one w⟩

/-! ## Illegal words (R112) -/

/-- The opcodes that no command has (R112 (a)). -/
theorem unused_opcode_iff : ∀ op : BitVec 4,
    op = 0x0#4 ∨ 0x5 ≤ op.toNat ↔ op ≠ 0x1#4 ∧ op ≠ 0x2#4 ∧ op ≠ 0x3#4 ∧ op ≠ 0x4#4 := by decide

/-- A command guarded by its reserved fields is an error where the guard fails. -/
theorem exists_error_ite {ε α : Type} {p : Prop} [Decidable p] {a : α} {e : ε} :
    (∃ e', (if p then .ok a else .error e : Except ε α) = .error e') ↔ ¬p := by
  split <;> simp [*]

/-- The four cases of R112, along the decoder's opcodes. -/
theorem exists_decodeWord_error_iff (w : Word) : (∃ e, decodeWord w = .error e) ↔
    (field w 31 28 = 0x0#4 ∨ 0x5 ≤ (field w 31 28).toNat) ∨
    (field w 31 28 = 0x1#4 ∧ field w 27 8 ≠ 0#20) ∨
    (field w 31 28 = 0x3#4 ∧ (field w 27 24 ≠ 0#4 ∨ field w 15 15 ≠ 0#1)) ∨
    (field w 31 28 = 0x4#4 ∧ field w 27 0 ≠ 0#28) := by
  rw [unused_opcode_iff]
  unfold decodeWord
  split
  case isTrue hop => simp [hop, exists_error_ite]
  split
  case isTrue hop => simp [hop]
  split
  case isTrue hop => simp [hop, exists_error_ite, imp_iff_not_or]
  split
  case isTrue hop => simp [hop, exists_error_ite]
  case isFalse => simp [*]

/-! ## Known words (95_test_vectors.md section 2.1) -/

/-- Settles O5: each word runs through the decoder. -/
theorem knownWordsDecode : Obligations.KnownWordsDecode :=
  ⟨rfl, rfl, rfl, rfl, rfl, rfl, rfl, rfl, rfl, rfl⟩

/-! ## The assembler's words (R115) -/

@[simp] theorem AsmLine.wellFormed_scan {bus : Nat} : (AsmLine.scan bus).wellFormed = true ↔ bus < 256 := by
  simp [AsmLine.wellFormed]

@[simp] theorem AsmLine.wellFormed_devrst {pin low high : Nat} :
    (AsmLine.devrst pin low high).wellFormed = true ↔ pin < 256 ∧ low < 1024 ∧ high < 1024 := by
  simp [AsmLine.wellFormed, and_assoc]

@[simp] theorem AsmLine.wellFormed_rdreg {bus addr reg : Nat} :
    (AsmLine.rdreg bus addr reg).wellFormed = true ↔ bus < 256 ∧ addr < 128 ∧ reg < 256 := by
  simp [AsmLine.wellFormed, and_assoc]

/-- A line is an error exactly where an operand is out of range (R115). -/
theorem AsmLine.assemble_eq_none_iff {l : AsmLine} : l.assemble = none ↔ ¬l.wellFormed = true := by
  simp [AsmLine.assemble]

theorem AsmLine.assemble_scan {bus : Nat} (h : (AsmLine.scan bus).assemble = some i) :
    bus < 256 ∧ .scan (BitVec.ofNat 8 bus) = i := by
  obtain ⟨hl, hi⟩ := Option.ite_none_right_eq_some.mp h
  exact ⟨wellFormed_scan.mp hl, Option.some.inj hi⟩

theorem AsmLine.assemble_devrst {pin low high : Nat} (h : (AsmLine.devrst pin low high).assemble = some i) :
    (pin < 256 ∧ low < 1024 ∧ high < 1024) ∧
      .devrst (BitVec.ofNat 8 pin) (BitVec.ofNat 10 low) (BitVec.ofNat 10 high) = i := by
  obtain ⟨hl, hi⟩ := Option.ite_none_right_eq_some.mp h
  exact ⟨wellFormed_devrst.mp hl, Option.some.inj hi⟩

theorem AsmLine.assemble_rdreg {bus addr reg : Nat} (h : (AsmLine.rdreg bus addr reg).assemble = some i) :
    (bus < 256 ∧ addr < 128 ∧ reg < 256) ∧
      .rdreg (BitVec.ofNat 8 bus) (BitVec.ofNat 7 addr) (BitVec.ofNat 8 reg) = i := by
  obtain ⟨hl, hi⟩ := Option.ite_none_right_eq_some.mp h
  exact ⟨wellFormed_rdreg.mp hl, Option.some.inj hi⟩

/-- OR-ing a value into the zero bits at the bottom of a word adds it. -/
theorem toNat_or_eq_add (m : Nat) {a b : Word} {k x : Nat} (ha : a.toNat = k) (hk : k % 2 ^ m = 0) (hb : b.toNat = x)
    (hx : x < 2 ^ m) : (a ||| b).toNat = k + x := by
  obtain ⟨q, rfl⟩ := Nat.dvd_of_mod_eq_zero hk
  rw [BitVec.toNat_or, ha, hb, Nat.two_pow_add_eq_or_of_lt hx]

/-- An operand shifted to its field, as a number. -/
theorem toNat_ofNat_shiftLeft {x n : Nat} (h : x * 2 ^ n < 2 ^ 32) : (BitVec.ofNat 32 x <<< n).toNat = x * 2 ^ n := by
  simpa [Nat.shiftLeft_eq] using h

theorem encode_scan_eq_or {bus : Nat} (hb : bus < 256) :
    encode (.scan (BitVec.ofNat 8 bus)) = (0x10000000 : Word) ||| BitVec.ofNat 32 bus := by
  have hbus : (BitVec.ofNat 32 bus).toNat = bus := Nat.mod_eq_of_lt (by omega)
  apply BitVec.eq_of_toNat_eq
  rw [encode_scan_toNat, toNat_or_eq_add 8 (k := 0x10000000) rfl rfl hbus hb, BitVec.toNat_ofNat, Nat.mod_eq_of_lt hb]

theorem encode_devrst_eq_or {pin low high : Nat} (hp : pin < 256) (hl : low < 1024) (hh : high < 1024) :
    encode (.devrst (BitVec.ofNat 8 pin) (BitVec.ofNat 10 low) (BitVec.ofNat 10 high)) =
      (0x20000000 : Word) ||| (BitVec.ofNat 32 pin <<< 20) ||| (BitVec.ofNat 32 low <<< 10) ||| BitVec.ofNat 32 high := by
  have hpin : (BitVec.ofNat 32 pin <<< 20).toNat = pin * 2 ^ 20 := toNat_ofNat_shiftLeft (by omega)
  have hlow : (BitVec.ofNat 32 low <<< 10).toNat = low * 2 ^ 10 := toNat_ofNat_shiftLeft (by omega)
  have hhigh : (BitVec.ofNat 32 high).toNat = high := Nat.mod_eq_of_lt (by omega)
  have h1 := toNat_or_eq_add 28 (a := 0x20000000) (k := 0x20000000) rfl rfl hpin (by omega)
  have h2 := toNat_or_eq_add 20 h1 (by omega) hlow (by omega)
  have h3 := toNat_or_eq_add 10 h2 (by omega) hhigh hh
  apply BitVec.eq_of_toNat_eq
  rw [encode_devrst_toNat, h3, BitVec.toNat_ofNat, BitVec.toNat_ofNat, BitVec.toNat_ofNat, Nat.mod_eq_of_lt hp,
    Nat.mod_eq_of_lt hl, Nat.mod_eq_of_lt hh]

theorem encode_rdreg_eq_or {bus addr reg : Nat} (hb : bus < 256) (ha : addr < 128) (hr : reg < 256) :
    encode (.rdreg (BitVec.ofNat 8 bus) (BitVec.ofNat 7 addr) (BitVec.ofNat 8 reg)) =
      (0x30000000 : Word) ||| (BitVec.ofNat 32 bus <<< 16) ||| (BitVec.ofNat 32 addr <<< 8) ||| BitVec.ofNat 32 reg := by
  have hbus : (BitVec.ofNat 32 bus <<< 16).toNat = bus * 2 ^ 16 := toNat_ofNat_shiftLeft (by omega)
  have haddr : (BitVec.ofNat 32 addr <<< 8).toNat = addr * 2 ^ 8 := toNat_ofNat_shiftLeft (by omega)
  have hreg : (BitVec.ofNat 32 reg).toNat = reg := Nat.mod_eq_of_lt (by omega)
  have h1 := toNat_or_eq_add 24 (a := 0x30000000) (k := 0x30000000) rfl rfl hbus (by omega)
  have h2 := toNat_or_eq_add 16 h1 (by omega) haddr (by omega)
  have h3 := toNat_or_eq_add 8 h2 (by omega) hreg hr
  apply BitVec.eq_of_toNat_eq
  rw [encode_rdreg_toNat, h3, BitVec.toNat_ofNat, BitVec.toNat_ofNat, BitVec.toNat_ofNat, Nat.mod_eq_of_lt hb,
    Nat.mod_eq_of_lt ha, Nat.mod_eq_of_lt hr]

/-- Settles O6: a line that assembles has its operands in range, where OR and sum of the shifted operands agree. -/
theorem assemblerWords : Obligations.AssemblerWords := by
  refine ⟨fun bus i h => ?scan, fun pin low high i h => ?devrst, fun bus addr reg i h => ?rdreg, fun i h => ?probe,
    fun bus => ?scan_error, fun pin low high => ?devrst_error, fun bus addr reg => ?rdreg_error, by decide⟩
  case scan =>
    obtain ⟨hb, rfl⟩ := AsmLine.assemble_scan h
    exact encode_scan_eq_or hb
  case devrst =>
    obtain ⟨⟨hp, hl, hh⟩, rfl⟩ := AsmLine.assemble_devrst h
    exact encode_devrst_eq_or hp hl hh
  case rdreg =>
    obtain ⟨⟨hb, ha, hr⟩, rfl⟩ := AsmLine.assemble_rdreg h
    exact encode_rdreg_eq_or hb ha hr
  case probe =>
    obtain rfl : .probe = i := Option.some.inj h
    rfl
  case scan_error => rw [AsmLine.assemble_eq_none_iff, AsmLine.wellFormed_scan]; omega
  case devrst_error => rw [AsmLine.assemble_eq_none_iff, AsmLine.wellFormed_devrst]; omega
  case rdreg_error => rw [AsmLine.assemble_eq_none_iff, AsmLine.wellFormed_rdreg]; omega

end Sys2Proof
end

section
/-! PROOFS. Taking a command word (R36, R41, R110, R112): the step of an idle block that is written an illegal word, and
that of one that is written a command. -/

namespace Sys2Proof.Machine

variable {s : State} {w : Word} {rest : List HostTurn}

/-! ## Illegal words (R112, R234) -/

/-- A step whose turn writes an illegal word to `CMD` takes that word, with the turn over. -/
theorem step_illegal {e : IllegalWord} (h : s.world.host = .write HostReg.cmd.offset w :: rest)
    (hd : decodeWord w = .error e) : step s = .next (s.withTurns rest).takeIllegal := by
  rw [step_write h, hostWrite, hostRegAt_offset]
  simp only [writeCmd, hd]

theorem State.takeIllegal_idle (h : s.block.flags.busy = false) :
    s.takeIllegal = { s with block := { s.block with flags := s.block.flags.illegalTaken } } := by
  simp [State.takeIllegal, h]

theorem Flags.illegalTaken_idle {f : Flags} (h : f.busy = false) : f.illegalTaken =
    { busy := false, done := false, pinfault := false, stage := false, illegal := true, overrun := false } := by
  simp [Flags.illegalTaken, Flags.cleared, h]

/-- Settles O4: R112's cases from the decoder's opcodes; the step from `State.takeIllegal` of an idle block. -/
theorem illegalWordsRefused : Obligations.IllegalWordsRefused := by
  refine fun w => ⟨exists_decodeWord_error_iff w, fun s rest ⟨e, hd⟩ hturn hidle => ?_⟩
  have hidle' : (s.withTurns rest).block.flags.busy = false := hidle
  rw [step_illegal hturn hd, State.takeIllegal_idle hidle', Flags.illegalTaken_idle hidle']
  rfl

/-! ## Commands (R110) -/

/-- Executing a command on an idle block clears the flags, sets `BUSY` and loads the operands (R110). -/
theorem exec_idle (i : Instr) (h : s.block.flags.busy = false) :
    exec i s = .next { s with block := loadOf i { s.block with flags := s.block.flags.accepted } } := by
  rw [exec_eq, State.takeCommand_idle _ h]

/-- Settles O8: every command by `exec_idle`; the word by its row of R107, which says what it decodes to. -/
theorem commandAcceptance : Obligations.CommandAcceptance := by
  refine ⟨fun s hidle => ?accepted, fun s w rest hturn => ?chosen⟩
  case accepted =>
    exact ⟨fun bus => exec_idle (.scan bus) hidle, fun pin low high => exec_idle (.devrst pin low high) hidle,
      fun bus addr reg => exec_idle (.rdreg bus addr reg) hidle, exec_idle .probe hidle⟩
  case chosen =>
    refine ⟨fun h => step_command hturn (scan_masked_iff.mp h), fun h => step_command hturn (devrst_masked_iff.mp h),
      fun h => step_command hturn (rdreg_masked_iff.mp h), ?_⟩
    rintro rfl
    exact step_command hturn rfl

end Sys2Proof.Machine
end

section
/-! PROOFS. Transport faults are treated as success (R117, R133, R232): the block only tests a status for `NACK_CODE`. -/

namespace Sys2Proof.Machine

variable {P : Params} {s t : State} {w : World}

/-- The class of a status is not "address not acknowledged" exactly where the block's test for `NACK_CODE` fails, for
`NACK_CODE` is not 0 (R6, R117, R133). -/
theorem statusClass_ne_addrNack_iff {st : StatusCode} : statusClass P st ≠ .addrNack ↔ st ≠ P.nackCode := by
  unfold statusClass
  split
  case isTrue h0 => simpa [h0] using P.nackCode_ne_zero.symm
  case isFalse => split <;> simp [*]

/-! ## A bus that answers -/

/-- A collaborator whose answer is drawn has not stopped answering. -/
theorem World.left_ne_zero_of_answer {α : Type} {c : Collaborator} {draw : World → α} {a : α}
    (h : (w.serves c).map draw = some a) : w.left c ≠ some 0 := by
  obtain ⟨u, hu, -⟩ := Option.map_eq_some_iff.mp h
  exact (World.serves_some hu).1

/-! ## A probe -/

/-- A probe answered by a status that is not `NACK_CODE` is a hit (R164, R166). -/
theorem seqStep_hit {st : StatusCode} (h : seqStep P s = .next t) (hp : s.block.seq.ph = .sProbe)
    (hw : s.world.nextWriteAnswer = some (st, w)) (hst : st ≠ P.nackCode) : t = (probed P s st w).toPhase .sHit := by
  obtain ⟨-, hrow⟩ := seqStep_next h
  rw [hp] at hrow
  generalize s.block.seq.opc = opc at hrow
  cases hrow with
  | hit st' w' _ hw' =>
    obtain ⟨rfl, rfl⟩ := Prod.mk.inj (Option.some.inj (hw'.symm.trans hw))
    rfl
  | miss st' w' _ hw' hnack =>
    obtain ⟨rfl, -⟩ := Prod.mk.inj (Option.some.inj (hw'.symm.trans hw))
    exact absurd hnack hst
  | drive _ _ _ _ _ _ hdrive | pinFault _ _ _ _ _ hdrive => simp at hdrive
  | unanswered _ _ c _ _ hc hl =>
    obtain rfl : .bus = c := Option.some.inj hc
    exact absurd hl (World.left_ne_zero_of_answer hw)

/-- The same of a machine whose next answer to a write is listed: the status is the listed one, and the one event is the
probe's (R162, R163). -/
theorem seqStep_hit_listed {st : StatusCode} {rest : List StatusCode} (hs : s.world.serves .bus = some w)
    (hst : st ≠ P.nackCode) (hp : s.block.seq.ph = .sProbe)
    (h : seqStep P { s with world := { s.world with writeAnswers := st :: rest } } = .next t) :
    t = { block := { s.block with
            seq := { s.block.seq with ph := .sHit }
            res := { s.block.res with lastWrite := st }
            desc := { s.block.desc with addr := s.block.seq.scanAddr, len := 0, valid := false } }
          world := { w with
            writeAnswers := rest
            trace := s.world.trace ++
              [.bw s.block.latch.bus s.block.seq.scanAddr 0 [] P.timeoutUnits true st] } } := by
  rw [seqStep_hit h hp (World.nextWriteAnswer_listed hs st rest) hst, ← World.serves_trace hs]
  rfl

/-! ## A read phase -/

/-- The result of a read phase whose status is not `NACK_CODE` is the byte in `BUF0` (R197). -/
theorem State.latchResult_present (h : s.block.res.lastRead ≠ P.nackCode) : s.latchResult P =
    { s with block := { s.block with res := { s.block.res with present := true, value := s.block.desc.buf0 } } } := by
  simp [State.latchResult, h]

/-- Where the operation goes from a read phase with a result (R198, R200). -/
def State.afterPresent (s : State) : State := if s.block.seq.opc = .probe then s.toPhase .pValue else s.complete

/-- A read phase answered by a status that is not `NACK_CODE` has a result (R197, R200). -/
theorem seqStep_present {r : ReadAnswer} (h : seqStep P s = .next t) (hp : s.block.seq.ph = .gRead)
    (hw : s.world.nextReadAnswer = some (r, w)) (hst : r.status ≠ P.nackCode) : t = (gotRead P s r w).afterPresent := by
  obtain ⟨-, hrow⟩ := seqStep_next h
  have hopc : (gotRead P s r w).block.seq.opc = s.block.seq.opc := rfl
  rw [State.afterPresent, hopc]
  rw [hp] at hrow
  generalize s.block.seq.opc = opc at hrow ⊢
  cases hrow with
  | readDone r' w' hw' =>
    obtain ⟨rfl, rfl⟩ := Prod.mk.inj (Option.some.inj (hw'.symm.trans hw))
    rfl
  | absent r' w' hw' hnack =>
    obtain ⟨rfl, -⟩ := Prod.mk.inj (Option.some.inj (hw'.symm.trans hw))
    exact absurd hnack hst
  | present r' w' hw' =>
    obtain ⟨rfl, rfl⟩ := Prod.mk.inj (Option.some.inj (hw'.symm.trans hw))
    rfl
  | drive _ _ _ _ _ _ hdrive | pinFault _ _ _ _ _ hdrive => simp at hdrive
  | unanswered _ _ c _ _ hc hl =>
    obtain rfl : .bus = c := Option.some.inj hc
    exact absurd hl (World.left_ne_zero_of_answer hw)

/-- The same of a machine whose next answer to a read is listed (R195 to R197). -/
theorem seqStep_present_listed {r : ReadAnswer} {rest : List ReadAnswer} (hs : s.world.serves .bus = some w)
    (hst : r.status ≠ P.nackCode) (hp : s.block.seq.ph = .gRead)
    (h : seqStep P { s with world := { s.world with readAnswers := r :: rest } } = .next t) :
    t = State.afterPresent
        { block := { s.block with
            res := { s.block.res with present := true, value := r.rx.getD P.placeholder, lastRead := r.status }
            desc := { s.block.desc with len := 1, valid := false, buf0 := r.rx.getD P.placeholder } }
          world := { w with
            readAnswers := rest
            trace := s.world.trace ++
              [.br s.block.latch.bus s.block.desc.addr 1 P.timeoutUnits true r.status r.rx] } } := by
  rw [seqStep_present h hp (World.nextReadAnswer_listed hs r rest) hst, gotRead, State.latchResult_present hst,
    ← World.serves_trace hs]
  rfl

/-- Settles O32: each step is determined up to the status, which stands only in its latch and in the event; where the
operation goes does not depend on it. -/
theorem faultsTreatedAsSuccess : Obligations.FaultsTreatedAsSuccess := by
  refine fun P s t t' w hs => ⟨fun st st' rest hst hst' hp h h' => ?probe, fun r r' rest hr hr' hrx hp h h' => ?read⟩
  case probe =>
    obtain rfl := seqStep_hit_listed hs (statusClass_ne_addrNack_iff.mp hst) hp h
    obtain rfl := seqStep_hit_listed hs (statusClass_ne_addrNack_iff.mp hst') hp h'
    exact ⟨rfl, rfl, rfl, rfl, rfl⟩
  case read =>
    obtain rfl := seqStep_present_listed hs (statusClass_ne_addrNack_iff.mp hr) hp h
    obtain rfl := seqStep_present_listed hs (statusClass_ne_addrNack_iff.mp hr') hp h'
    rw [hrx]
    unfold State.afterPresent
    split <;> exact ⟨rfl, rfl, rfl, rfl, rfl, rfl⟩

end Sys2Proof.Machine
end

section
/-! PROOFS. The timeout of the bus requests in the trace (R135): every new event of a turn answers the port call of the
phase the turn starts in, a block reset's carried-out request included (R261), and every port call on a bus carries
`TIMEOUT_UNITS`. -/

namespace Sys2Proof.Machine

variable {P : Params} {s t : State}

/-- A block reset's carried-out request is what the sequencer's turn would have made; otherwise the world stays. -/
theorem carriedOutWorld_cases (P : Params) (s : State) :
    (∃ t, seqStep P s = .next t ∧ carriedOutWorld P s = t.world) ∨ carriedOutWorld P s = s.world := by
  unfold carriedOutWorld
  split
  case h_1 t hs => exact .inl ⟨t, hs, rfl⟩
  all_goals exact .inr rfl

/-- Whatever the turn is, the events it adds answer the port call of the block's phase. -/
theorem TurnRow.new_events_answer_portCall {turn : HostTurn} (h : TurnRow P s turn t) :
    ∃ l : List PortEvent, t.world.trace = s.world.trace ++ l ∧ ∀ e ∈ l, s.block.portCall P = some e.call := by
  have sequencer : ∀ {u : State}, seqStep P s = .next u →
      ∃ l : List PortEvent, u.world.trace = s.world.trace ++ l ∧ ∀ e ∈ l, s.block.portCall P = some e.call := fun hs => by
    obtain ⟨l, -, ht, hcall⟩ := (seqStep_next hs).2.trace_grows rfl
    exact ⟨l, ht, hcall⟩
  cases h with
  | sequencer t hs => exact sequencer hs
  | reset carriedOut =>
    cases carriedOut with
    | true =>
      rcases carriedOutWorld_cases P s with ⟨u, hs, hw⟩ | hw
      · simpa [blockReset, hw] using sequencer hs
      · exact ⟨[], by simp [blockReset, hw], by simp⟩
    | false => exact ⟨[], by simp [blockReset], by simp⟩
  | _ => exact ⟨[], by simp, by simp⟩

/-- The bus requests among the port calls, a probe's, a register write's and a register read's, carry `TIMEOUT_UNITS`
(R163, R193, R196). -/
theorem Block.portCall_timeoutIs {b : Block} {e : PortEvent} (he : b.portCall P = some e.call) :
    e.timeoutIs P.timeoutUnits := by
  cases e with
  | bw | br => cases hp : b.seq.ph <;> simp_all [Block.portCall, PortEvent.call, PortEvent.timeoutIs]
  | _ => trivial

theorem TurnRow.keeps_timeoutIs {turn : HostTurn} (h : TurnRow P s turn t)
    (hs : ∀ e ∈ s.world.trace, e.timeoutIs P.timeoutUnits) : ∀ e ∈ t.world.trace, e.timeoutIs P.timeoutUnits := by
  obtain ⟨l, ht, hcall⟩ := h.new_events_answer_portCall
  rw [ht, List.forall_mem_append]
  exact ⟨hs, fun e he => Block.portCall_timeoutIs (hcall e he)⟩

/-- Settles O40: taking a turn from the list leaves the trace, and the turn adds only answers to a port call. -/
theorem timeoutOnEveryRequest : Obligations.TimeoutOnEveryRequest := by
  refine ⟨rfl, fun s t hs h => ?_⟩
  obtain ⟨turn, s₀, hr, ⟨-, -, rfl⟩ | ⟨rest, -, rfl⟩⟩ := step_next h
  · exact hr.keeps_timeoutIs hs
  · exact hr.keeps_timeoutIs hs

end Sys2Proof.Machine
end

section
/-! PROOFS. The transitions of SCAN (R166): each phase's step once its request has been answered. -/

namespace Sys2Proof.Machine

variable {P : Params} {s : State} {w : World}

/-! ## A step whose request has been answered -/

/-- In a phase of the operation under way, the sequencer's step is the phase's (R26). -/
theorem seqStep_eq_phaseStep {ph : Phase} {opc : Opc} (ho : s.block.seq.opc = opc) (hp : s.block.seq.ph = ph)
    (hu : ph.usedBy opc = true) : seqStep P s = phaseStep P s ph := by
  simp [seqStep, ho, hp, hu]

/-- A record that the sink takes is reported, and the step goes on (R142). -/
theorem State.reportThen_taken (r : Record) (next : State → State) (h : s.world.sinkTakes = some w) :
    s.reportThen r next = .next (next (s.afterEvent (.rp r) w)) := by
  simp [State.reportThen, State.report, State.await, h]

/-! ## The phases of SCAN -/

/-- A probe that has been answered: on to the next address on `NACK_CODE`, to the report on any other status (R162 to
R164). -/
theorem seqStep_scanProbe {st : StatusCode} (ho : s.block.seq.opc = .scan) (hp : s.block.seq.ph = .sProbe)
    (ha : s.block.seq.a.toNat ≤ 127) (hw : s.world.nextWriteAnswer = some (st, w)) :
    seqStep P s = .next
      (if st = P.nackCode then (probed P s st w).scanAdvance P else (probed P s st w).toPhase .sHit) := by
  have hrange : ¬P.numAddr ≤ s.block.seq.a.toNat := by rw [P.numAddr_val]; omega
  rw [seqStep_eq_phaseStep ho hp rfl, phaseStep, seqScanProbe, if_neg hrange]
  simp only [State.busWrite, hw, Option.map_some, State.await]
  rfl

/-- A hit that has been reported (R165). -/
theorem seqStep_scanHit (ho : s.block.seq.opc = .scan) (hp : s.block.seq.ph = .sHit)
    (ha : s.block.seq.a.toNat ≤ 127) (hw : s.world.sinkTakes = some w) :
    seqStep P s = .next
      ((s.afterEvent (.rp (.scanHit s.block.seq.scanAddr s.block.res.lastWrite)) w).scanAdvance P) := by
  have hrange : ¬P.numAddr ≤ s.block.seq.a.toNat := by rw [P.numAddr_val]; omega
  rw [seqStep_eq_phaseStep ho hp rfl, phaseStep, seqScanHit, if_neg hrange, State.reportThen_taken _ _ hw]

/-- A flush that has been taken ends the scan (R167). -/
theorem seqStep_scanFlush (ho : s.block.seq.opc = .scan) (hp : s.block.seq.ph = .sFlush)
    (hw : s.world.sinkTakes = some w) : seqStep P s = .next (s.afterEvent (.rp .flush) w).complete := by
  rw [seqStep_eq_phaseStep ho hp rfl, phaseStep, seqScanFlush, State.reportThen_taken _ _ hw]

/-! ## The scan counter (R27, R161) -/

/-- Below the last address the scan goes on to the next one, after it to the flush. -/
theorem State.scanAdvance_eq (ha : s.block.seq.a.toNat ≤ 127) : s.scanAdvance P =
    { s with block := { s.block with
        seq := if s.block.seq.a ≠ 127 then { s.block.seq with a := s.block.seq.a + 1, ph := .sProbe }
               else { s.block.seq with a := 128, ph := .sFlush } } } := by
  simp only [State.scanAdvance, P.scan_over_iff ha]
  by_cases hlast : s.block.seq.a = 127
  · rw [if_pos hlast, if_neg (not_not_intro hlast), hlast]
    rfl
  · rw [if_neg hlast, if_pos hlast]

/-- Settles O20: each phase's step, with the scan counter's next value by `State.scanAdvance_eq`. -/
theorem scanTransitions : Obligations.ScanTransitions := by
  refine ⟨rfl, fun P s ho => ⟨fun hp ha st w hw => ?probe, fun hp ha w hw => ?hit, fun hp w hw => ?flush⟩⟩
  case probe =>
    obtain ⟨-, htrace, -, -⟩ := World.nextWriteAnswer_frame hw
    rw [seqStep_scanProbe ho hp ha hw, ← htrace]
    by_cases hnack : st = P.nackCode
    · rw [if_pos hnack, if_neg (not_not_intro hnack), State.scanAdvance_eq (s := probed P s st w) ha]
      rfl
    · rw [if_neg hnack, if_pos hnack]
      rfl
  case hit =>
    rw [seqStep_scanHit ho hp ha hw, State.scanAdvance_eq (by exact ha), ← World.serves_trace hw]
    rfl
  case flush =>
    rw [seqStep_scanFlush ho hp hw, ← World.serves_trace hw]
    rfl

end Sys2Proof.Machine
end

section
/-! PROOFS. A whole SCAN (R160, R161, R167) where the bus answers every request and the sink takes every record: one
address takes at most two steps, and an induction on the addresses left puts them together. -/

namespace Sys2Proof.Machine

variable {P : Params} {s t : State} {n : Nat}

/-! ## Runs -/

/-- Runs compose. -/
theorem run_add {m : Nat} (h : run m s = .next t) (n : Nat) : run (m + n) s = run n t := by
  induction m generalizing s with
  | zero =>
    obtain rfl : s = t := by simpa [run] using h
    rw [Nat.zero_add]
  | succ m ih =>
    obtain ⟨u, hu, hrun⟩ := run_succ_next h
    rw [Nat.succ_add, run_succ hu, ih hrun]

/-! ## The statuses of a bus that answers every request (R70, R71) -/

theorem World.nextWriteAnswer_always {w : World} (h : w.bus = none) :
    w.nextWriteAnswer = some (w.drawWrite.1, w.drawWrite.2) := by
  rw [World.nextWriteAnswer, World.serves_always (c := .bus) h]
  rfl

/-- Drawing a status changes nothing but the listed statuses and the draw counter. -/
theorem World.drawWrite_world (w : World) : w.drawWrite.2 =
    { w with writeAnswers := w.drawWrite.2.writeAnswers, oracleDraws := w.drawWrite.2.oracleDraws } := by
  unfold World.drawWrite; split <;> rfl

/-- If the statuses drawn after the first begin with those still listed, then all of them begin with those listed. -/
theorem World.take_cons_drawWrite {w : World} {statuses : List StatusCode}
    (h : statuses.take w.drawWrite.2.writeAnswers.length = w.drawWrite.2.writeAnswers.take n) :
    (w.drawWrite.1 :: statuses).take w.writeAnswers.length = w.writeAnswers.take (n + 1) := by
  unfold World.drawWrite at *
  cases hlist : w.writeAnswers with
  | nil => simp
  | cons st rest => simpa [hlist] using h

/-! ## The events of a scan -/

/-- The events of a scan from the address `a` on, whose probes answer `statuses`. -/
def scanTraceFrom (P : Params) (bus : Byte) (a : Nat) (statuses : List StatusCode) : List PortEvent :=
  (((scanOrder.drop a).zip statuses).flatMap fun x => probeEvents P bus x.1 x.2) ++ [.rp .flush]

theorem scanTraceFrom_zero (P : Params) (bus : Byte) (statuses : List StatusCode) :
    scanTraceFrom P bus 0 statuses = scanTrace P bus statuses := rfl

/-- With no address left there is the flush (R167). -/
theorem scanTraceFrom_nil (P : Params) (bus : Byte) (a : Nat) : scanTraceFrom P bus a [] = [.rp .flush] := by
  simp [scanTraceFrom]

/-- The address `a` is probed first, then the addresses after it (R161). -/
theorem scanTraceFrom_cons (P : Params) (bus : Byte) {a : Nat} (ha : a ≤ 127) (st : StatusCode)
    (statuses : List StatusCode) : scanTraceFrom P bus a (st :: statuses) =
      probeEvents P bus (BitVec.ofNat 7 a) st ++ scanTraceFrom P bus (a + 1) statuses := by
  have hlen : a < scanOrder.length := by simp [scanOrder]; omega
  have haddr : scanOrder[a] = BitVec.ofNat 7 a := by simp [scanOrder]
  simp [scanTraceFrom, List.drop_eq_getElem_cons hlen, haddr]

theorem probeEvents_miss (bus : Byte) (addr : DevAddr) {st : StatusCode} (h : st = P.nackCode) :
    probeEvents P bus addr st = [.bw bus addr 0 [] P.timeoutUnits true st] := by
  rw [probeEvents, if_pos h]

theorem probeEvents_hit (bus : Byte) (addr : DevAddr) {st : StatusCode} (h : st ≠ P.nackCode) :
    probeEvents P bus addr st = [.bw bus addr 0 [] P.timeoutUnits true st, .rp (.scanHit addr st)] := by
  rw [probeEvents, if_neg h]

/-! ## One address -/

/-- A scan under way with `n` addresses left, its next step a probe or, after the last address, the flush; the host is
silent, the bus answers every request and the sink takes every record. -/
structure ScanLeft (n : Nat) (s : State) : Prop where
  opc : s.block.seq.opc = .scan
  left : s.block.seq.a.toNat + n = 128
  phase : s.block.seq.ph = if n = 0 then .sFlush else .sProbe
  desc_last : n = 0 → s.block.desc = { s.block.desc with addr := 127, len := 0, valid := false }
  host : s.world.host = []
  bus : s.world.bus = none
  sink : s.world.sink = none

/-- The state after the address `A` has been probed and, if it is a hit, reported (R163 to R166). -/
def State.scanned (P : Params) (s : State) : State :=
  State.scanAdvance P
    { probed P s s.world.drawWrite.1 s.world.drawWrite.2 with
      world := { s.world.drawWrite.2 with
        trace := s.world.trace ++ probeEvents P s.block.latch.bus s.block.seq.scanAddr s.world.drawWrite.1 } }

/-- Of the world one address changes the answers consumed and the trace. -/
theorem State.scanned_world (P : Params) (s : State) : (s.scanned P).world = { s.world with
    writeAnswers := s.world.drawWrite.2.writeAnswers
    oracleDraws := s.world.drawWrite.2.oracleDraws
    trace := s.world.trace ++ probeEvents P s.block.latch.bus s.block.seq.scanAddr s.world.drawWrite.1 } := by
  unfold State.scanned
  rw [World.drawWrite_world]
  rfl

theorem ScanLeft.a_le (h : ScanLeft (n + 1) s) : s.block.seq.a.toNat ≤ 127 := by
  have := h.left
  omega

/-- One address takes one step, or two if it is a hit. -/
theorem ScanLeft.run_scanned (h : ScanLeft (n + 1) s) : ∃ m ≤ 2, run m s = .next (s.scanned Config.params) := by
  have hprobe : step s = .next _ :=
    (step_silent h.host).trans
      (seqStep_scanProbe h.opc h.phase h.a_le (World.nextWriteAnswer_always h.bus))
  by_cases hnack : s.world.drawWrite.1 = Config.params.nackCode
  case pos =>
    rw [if_pos hnack] at hprobe
    refine ⟨1, by omega, ?_⟩
    rw [run_succ hprobe, State.scanned, probeEvents_miss _ _ hnack, ← World.drawWrite_trace s.world]
    rfl
  case neg =>
    rw [if_neg hnack] at hprobe
    have hhost : s.world.drawWrite.2.host = [] := by rw [World.drawWrite_host, h.host]
    have hsink : s.world.drawWrite.2.sink = none := by rw [World.drawWrite_sink, h.sink]
    have hreport : step ((probed Config.params s s.world.drawWrite.1 s.world.drawWrite.2).toPhase .sHit) = .next _ :=
      (step_silent hhost).trans (seqStep_scanHit h.opc rfl h.a_le (World.serves_always (c := .sink) hsink))
    refine ⟨2, le_rfl, ?_⟩
    rw [run_succ hprobe, run_succ hreport, State.scanned, probeEvents_hit _ _ hnack, ← World.drawWrite_trace s.world,
      List.append_cons]
    rfl

/-- After one address there is one address less to go. -/
theorem ScanLeft.scanned (h : ScanLeft (n + 1) s) : ScanLeft n (s.scanned P) where
  opc := h.opc
  left := by
    have := h.left
    show (s.block.seq.a + 1).toNat + n = 128
    bv_omega
  phase := by
    have := h.left
    have hover : (s.block.seq.a + 1).toNat = P.numAddr ↔ n = 0 := by rw [P.numAddr_val]; bv_omega
    show (if (s.block.seq.a + 1).toNat = P.numAddr then Phase.sFlush else .sProbe) = _
    simp only [hover]
  desc_last := by
    rintro rfl
    have hlast : s.block.seq.scanAddr = 127 := by
      have := h.left
      unfold Sequencer.scanAddr
      bv_omega
    show { s.block.desc with addr := s.block.seq.scanAddr, len := 0, valid := false } = _
    rw [hlast]
    rfl
  host := (World.drawWrite_host _).trans h.host
  bus := (World.drawWrite_bus _).trans h.bus
  sink := (World.drawWrite_sink _).trans h.sink

/-! ## All addresses -/

/-- The state in which a scan ends that is in `s`, whose probes still to come answer `statuses`, and which leaves the
listed answers and the draw counter of `v`. -/
def State.scanEnd (P : Params) (s : State) (statuses : List StatusCode) (v : World) : State where
  block := { s.block with
    desc := { s.block.desc with addr := 127, len := 0, valid := false }
    seq := { s.block.seq with opc := .idle, ph := .idle, a := 128 }
    flags := s.block.flags.completed
    res := { s.block.res with lastWrite := statuses.getLastD s.block.res.lastWrite } }
  world := { s.world with
    writeAnswers := v.writeAnswers
    oracleDraws := v.oracleDraws
    trace := s.world.trace ++ scanTraceFrom P s.block.latch.bus s.block.seq.a.toNat statuses }

/-- The end of a scan is the end of the scan from its next address on. -/
theorem State.scanned_scanEnd (ha : s.block.seq.a.toNat ≤ 127) (statuses : List StatusCode) (v : World) :
    (s.scanned P).scanEnd P statuses v = s.scanEnd P (s.world.drawWrite.1 :: statuses) v := by
  have hnext : (s.block.seq.a + 1).toNat = s.block.seq.a.toNat + 1 := by bv_omega
  have haddr : s.block.seq.scanAddr = BitVec.ofNat 7 s.block.seq.a.toNat := by
    rw [BitVec.ofNat_toNat]
    rfl
  rw [State.scanEnd, State.scanEnd, State.scanned_world, List.getLastD_cons, scanTraceFrom_cons _ _ ha, ← haddr,
    ← hnext, ← List.append_assoc]
  rfl

/-- The flush completes a scan with no address left (R166, R167). -/
theorem ScanLeft.run_flush (h : ScanLeft 0 s) : run 1 s = .next (s.scanEnd Config.params [] s.world) := by
  have hflush : step s = .next _ :=
    (step_silent h.host).trans (seqStep_scanFlush h.opc h.phase (World.serves_always (c := .sink) h.sink))
  have ha : s.block.seq.a = 128 := by
    have := h.left
    bv_omega
  rw [run_succ hflush, State.scanEnd, scanTraceFrom_nil, ← h.desc_last rfl, ← ha]
  rfl

/-- A scan with `n` addresses left completes: at most two steps for each of them, and one for the flush. -/
theorem ScanLeft.completes (h : ScanLeft n s) : ∃ m statuses v, m ≤ 2 * n + 1 ∧ statuses.length = n ∧
    statuses.take s.world.writeAnswers.length = s.world.writeAnswers.take n ∧
    run m s = .next (s.scanEnd Config.params statuses v) := by
  induction n generalizing s with
  | zero => exact ⟨1, [], s.world, le_rfl, rfl, by simp, h.run_flush⟩
  | succ n ih =>
    obtain ⟨k, hk, hround⟩ := h.run_scanned
    obtain ⟨m, statuses, v, hm, hlen, hlisted, hrest⟩ := ih h.scanned
    refine ⟨k + m, s.world.drawWrite.1 :: statuses, v, by omega, by simp [hlen],
      World.take_cons_drawWrite hlisted, ?_⟩
    rw [run_add hround, hrest, State.scanned_scanEnd h.a_le]

/-- A scan that has just been accepted has all 128 addresses left (R110). -/
theorem ScanLeft.of_loadScan (bus : Byte) (b : Block) (hhost : s.hostSilent) (hbus : s.answeredBy .bus)
    (hsink : s.answeredBy .sink) : ScanLeft 128 { s with block := b.loadScan bus } where
  opc := rfl
  left := rfl
  phase := rfl
  desc_last := by simp
  host := hhost
  bus := hbus
  sink := hsink

/-- Settles O25: the accepted command has all addresses left, and `ScanLeft.completes` runs it to its end. -/
theorem scanRunsToCompletion : Obligations.ScanRunsToCompletion := by
  intro bus s hidle hhost hbus hsink
  obtain ⟨m, statuses, v, hm, hlen, hlisted, hrun⟩ :=
    (ScanLeft.of_loadScan bus { s.block with flags := s.block.flags.accepted } hhost hbus hsink).completes
  have hne : statuses ≠ [] := List.ne_nil_of_length_pos (by omega)
  refine ⟨_, statuses, m, _, statuses.getLast hne, exec_idle (.scan bus) hidle, hm, hrun, hlen,
    List.getLast?_eq_some_getLast hne, hlisted, ?block, ?world⟩
  case block =>
    rw [State.scanEnd, List.getLastD_eq_getLast?, List.getLast?_eq_some_getLast hne]
    rfl
  case world =>
    rw [← scanTraceFrom_zero]
    rfl

end Sys2Proof.Machine
end

section
/-! PROOFS. The transitions of the reset sequence (R181): its two halves, one per level, each a drive and a wait. -/

namespace Sys2Proof.Machine

variable {P : Params} {s : State} {w : World}

/-! ## The two halves of the reset sequence (R176 to R178) -/

/-- The phase that drives the level. -/
def drivePhase (level : Bool) : Phase := if level then .dHigh else .dLow

/-- The phase that waits after the level has been driven. -/
def waitPhase (level : Bool) : Phase := if level then .dWaitHigh else .dWaitLow

/-- How long the sequence waits after the level has been driven. -/
def Latch.waitMs (l : Latch) (level : Bool) : Millis := if level then l.high else l.low

/-- Where the sequence goes when the drive of the level has been answered: on to the wait, or to PinFault (R139). -/
def State.afterDrive (level : Bool) (r : PinAnswer) (s : State) : State :=
  match r with
  | .ok => s.toPhase (waitPhase level)
  | .fault => s.raisePinFault level

/-- Where the sequence goes after the wait: from the low level to the high one, from there to the end of DEVRST or to the
sweeps of PROBE. -/
def State.afterWait (level : Bool) (s : State) : State :=
  if level then (if s.block.seq.opc = .probe then s.toPhase .pNext else s.complete) else s.toPhase .dHigh

theorem State.afterWait_devrst (h : s.block.seq.opc = .devrst) : s.afterWait true = s.complete := by
  simp [State.afterWait, h]

theorem State.afterWait_probe (h : s.block.seq.opc = .probe) : s.afterWait true = s.toPhase .pNext := by
  simp [State.afterWait, h]

/-! ## A step whose request has been answered -/

/-- In a phase of the reset sequence the sequencer's step is the phase's, whichever operation is under way (R26). -/
theorem seqStep_resetPhase {ph : Phase} (ho : s.block.seq.opc = .devrst ∨ s.block.seq.opc = .probe)
    (hp : s.block.seq.ph = ph) (hu : ph.usedBy .devrst = true ∧ ph.usedBy .probe = true) :
    seqStep P s = phaseStep P s ph := by
  rcases ho with ho | ho
  · exact seqStep_eq_phaseStep ho hp hu.1
  · exact seqStep_eq_phaseStep ho hp hu.2

/-- A delay that is answered is over, and the step goes on (R140). -/
theorem State.delayThen_answered (d : Millis) (next : State → State) (h : s.world.serves .delay = some w) :
    s.delayThen d next = .next (next (s.afterEvent (.dl d) w)) := by
  simp [State.delayThen, State.delayMs, State.await, h]

/-- A drive that is answered goes where the answer says (R139). -/
theorem seqDrive_answered (level : Bool) {r : PinAnswer} (h : s.world.nextPinAnswer = some (r, w)) :
    seqDrive level (waitPhase level) s = .next ((drove s level r w).afterDrive level r) := by
  cases r <;> simp [seqDrive, State.pinDrive, h, State.afterDrive, drove]

/-- A drive phase whose drive has been answered (R176, R179, R180). -/
theorem seqStep_drive (level : Bool) {r : PinAnswer} (ho : s.block.seq.opc = .devrst ∨ s.block.seq.opc = .probe)
    (hp : s.block.seq.ph = drivePhase level) (hw : s.world.nextPinAnswer = some (r, w)) :
    seqStep P s = .next ((drove s level r w).afterDrive level r) := by
  rw [← seqDrive_answered level hw]
  cases level with
  | false | true => exact seqStep_resetPhase ho hp ⟨rfl, rfl⟩

/-- A wait phase whose delay has been answered (R177, R178). -/
theorem seqStep_wait (level : Bool) (ho : s.block.seq.opc = .devrst ∨ s.block.seq.opc = .probe)
    (hp : s.block.seq.ph = waitPhase level) (hw : s.world.serves .delay = some w) :
    seqStep P s = .next ((s.afterEvent (.dl (s.block.latch.waitMs level)) w).afterWait level) := by
  rw [← State.delayThen_answered _ _ hw]
  cases level with
  | false | true => exact seqStep_resetPhase ho hp ⟨rfl, rfl⟩

/-- Settles O21: each half's drive and wait; the event recorded after the answer is recorded on the trace before it. -/
theorem resetTransitions : Obligations.ResetTransitions := by
  refine fun P s ho => ⟨fun r w hw => ?drives, fun w hw => ?waits⟩
  case drives =>
    obtain ⟨-, htrace, -, -⟩ := World.nextPinAnswer_frame hw
    rw [← htrace]
    refine ⟨fun hp => (seqStep_drive false ho hp hw).trans ?_,
      fun hp => (seqStep_drive true ho hp hw).trans ?_⟩
    all_goals cases r <;> rfl
  case waits =>
    rw [← World.serves_trace hw]
    refine ⟨fun hp => seqStep_wait false ho hp hw,
      fun hp => (seqStep_wait true ho hp hw).trans ?_⟩
    rcases ho with ho | ho
    · rw [State.afterWait_devrst (by exact ho), if_pos ho]
      rfl
    · rw [State.afterWait_probe (by exact ho), if_neg (by simp [ho])]
      rfl

end Sys2Proof.Machine
end

section
/-! PROOFS. A whole DEVRST (R175 to R180): one half of the reset sequence at a time, an answered one in two steps, a failing
drive in one, after which the block stays idle. -/

namespace Sys2Proof.Machine

variable {s : State} {w v : World}

/-- One half of the reset sequence whose drive answers `ok` and whose delay is answered (R176 to R178). -/
theorem run_driveAndWait (level : Bool) (ho : s.block.seq.opc = .devrst ∨ s.block.seq.opc = .probe)
    (hp : s.block.seq.ph = drivePhase level) (hhost : s.world.host = [])
    (hpin : s.world.nextPinAnswer = some (.ok, w)) (hdelay : w.serves .delay = some v) :
    run 2 s = .next (State.afterWait level { s with
      world := (v.record (pinEvent s.block.latch.pin level .ok)).record (.dl (s.block.latch.waitMs level)) }) := by
  have hdrive : step s = .next ((drove s level .ok w).toPhase (waitPhase level)) :=
    (step_silent hhost).trans (seqStep_drive level ho hp hpin)
  obtain ⟨hhost', -, -, -⟩ := World.nextPinAnswer_frame hpin
  have hwait : step ((drove s level .ok w).toPhase (waitPhase level)) = .next _ :=
    (step_silent (hhost'.trans hhost)).trans (seqStep_wait level ho rfl (World.serves_some_record _ hdelay))
  rw [run_succ hdrive, run_succ hwait]
  rfl

/-- A failing drive ends the operation in its step, and nothing follows (R179, R180, R246). -/
theorem run_pinFault (level : Bool) (ho : s.block.seq.opc = .devrst ∨ s.block.seq.opc = .probe)
    (hp : s.block.seq.ph = drivePhase level) (hhost : s.world.host = [])
    (hpin : s.world.nextPinAnswer = some (.fault, w)) (n : Nat) :
    run (n + 1) s = .next ((drove s level .fault w).raisePinFault level) := by
  have hdrive : step s = .next ((drove s level .fault w).raisePinFault level) :=
    (step_silent hhost).trans (seqStep_drive level ho hp hpin)
  obtain ⟨hhost', -, -, -⟩ := World.nextPinAnswer_frame hpin
  rw [run_succ hdrive, run_idle rfl rfl (hhost'.trans hhost)]

/-- The state in which an idle block has just taken a DEVRST (R110, R175). -/
def State.devrstTaken (pin : Byte) (low high : Millis) (s : State) : State :=
  { s with block := Block.loadDevrst pin low high { s.block with flags := s.block.flags.accepted } }

/-- Settles O26: the low half fails or runs, and then the high half does. -/
theorem devrstRunsToCompletion : Obligations.DevrstRunsToCompletion := by
  intro pin low high s hidle hhost
  refine ⟨s.devrstTaken pin low high, exec_idle (.devrst pin low high) hidle, fun w₁ hpin => ?lowFails,
    fun w₁ w₂ hpin hdelay => ?lowRuns⟩
  case lowFails =>
    obtain ⟨-, htrace, -, -⟩ := World.nextPinAnswer_frame hpin
    refine Eq.trans (run_pinFault (s := s.devrstTaken pin low high) false (.inl rfl) rfl hhost hpin 3) ?_
    rw [← htrace]
    rfl
  case lowRuns =>
    have hlow := run_driveAndWait (s := s.devrstTaken pin low high) false (.inl rfl) rfl hhost hpin hdelay
    obtain ⟨hhost₁, htrace₁, -, -⟩ := World.nextPinAnswer_frame hpin
    obtain ⟨hhost₂, -, -, -, -, htrace₂, -, -⟩ := World.serves_frame hdelay
    have hsilent : w₂.host = [] := hhost₂.trans (hhost₁.trans hhost)
    refine ⟨fun w₃ hpin' => (run_add hlow 2).trans ?highFails,
      fun w₃ w₄ hpin' hdelay' => (run_add hlow 2).trans ?highRuns⟩
    all_goals
      obtain ⟨-, htrace₃, -, -⟩ := World.nextPinAnswer_frame hpin'
      have hrecorded := World.nextPinAnswer_record (.dl low) (World.nextPinAnswer_record (.pl pin .ok) hpin')
    case highFails =>
      refine Eq.trans (run_pinFault true (.inl rfl) rfl hsilent hrecorded 1) ?_
      rw [← htrace₁, ← htrace₂, ← htrace₃, List.append_cons, List.append_cons]
      rfl
    case highRuns =>
      have hserved := World.serves_some_record (.dl low) (World.serves_some_record (.pl pin .ok) hdelay')
      refine Eq.trans (run_driveAndWait true (.inl rfl) rfl hsilent hrecorded hserved) ?_
      rw [← htrace₁, ← htrace₂, ← htrace₃, ← World.serves_trace hdelay', List.append_cons, List.append_cons,
        List.append_cons]
      rfl

end Sys2Proof.Machine
end

section
/-! PROOFS. The transitions of a register read (R200), for RDREG and for PROBE: its write phase, whose status has no effect
(R194), and its read phase, whose status decides between absent and present (R197). -/

namespace Sys2Proof.Machine

variable {P : Params} {s t : State} {w : World}

/-! ## The operations that read registers -/

/-- The operations that pass through a phase of a register read (R26). -/
theorem Phase.usedBy_gWrite_iff {opc : Opc} : Phase.usedBy .gWrite opc = true ↔ opc = .rdreg ∨ opc = .probe := by
  cases opc <;> simp [Phase.usedBy]

theorem Phase.usedBy_gRead_iff {opc : Opc} : Phase.usedBy .gRead opc = true ↔ opc = .rdreg ∨ opc = .probe := by
  cases opc <;> simp [Phase.usedBy]

/-! ## The write phase (R192 to R194) -/

/-- The state after the write phase: the register index in the buffer, and the status in its latch. -/
theorem wrote_eq {ws : StatusCode} : wrote P s ws w =
    { block := { s.block with
        desc := { addr := s.block.latch.addr, len := 1, valid := false, buf0 := s.block.latch.reg }
        res := { s.block.res with lastWrite := ws } }
      world := { w with
        trace := w.trace ++ [.bw s.block.latch.bus s.block.latch.addr 1 [s.block.latch.reg] P.timeoutUnits false ws] } } :=
  rfl

/-- A write phase that has been answered is followed by the read phase, whatever the status (R194). -/
theorem seqStep_regWrite {ws : StatusCode} (ho : s.block.seq.opc = .rdreg ∨ s.block.seq.opc = .probe)
    (hp : s.block.seq.ph = .gWrite) (hw : s.world.nextWriteAnswer = some (ws, w)) :
    seqStep P s = .next ((wrote P s ws w).toPhase .gRead) := by
  rw [seqStep_eq_phaseStep rfl hp (Phase.usedBy_gWrite_iff.mpr ho), phaseStep, seqRegWrite, phaseAfterWrite_eq]
  simp only [State.busWrite, hw, Option.map_some, State.await]
  rfl

/-- The same of a machine whose next answer to a write is listed, for every operation whose step in this phase answers. -/
theorem seqStep_regWrite_listed {ws : StatusCode} {rest : List StatusCode} (hs : s.world.serves .bus = some w)
    (hp : s.block.seq.ph = .gWrite)
    (h : seqStep P { s with world := { s.world with writeAnswers := ws :: rest } } = .next t) :
    t = (wrote P s ws { w with writeAnswers := rest }).toPhase .gRead := by
  have hused : Phase.usedBy .gWrite s.block.seq.opc = true := hp ▸ (seqStep_next h).1
  exact Host.Outcome.next.inj (h.symm.trans
    (seqStep_regWrite (s := { s with world := { s.world with writeAnswers := ws :: rest } })
      (Phase.usedBy_gWrite_iff.mp hused) hp (World.nextWriteAnswer_listed hs ws rest)))

/-! ## The read phase (R195 to R198) -/

/-- The result latches after a read phase: absent with value 0 on `NACK_CODE`, else the byte in `BUF0` (R197). -/
theorem State.latchResult_eq : s.latchResult P =
    { s with block := { s.block with
        res := { s.block.res with
          present := decide (s.block.res.lastRead ≠ P.nackCode)
          value := if s.block.res.lastRead = P.nackCode then 0 else s.block.desc.buf0 } } } := by
  by_cases hnack : s.block.res.lastRead = P.nackCode
  · simp [State.latchResult, hnack]
  · rw [State.latchResult_present hnack]
    simp [hnack]

/-- The state after the read phase of a descriptor that still holds `O_ADDR`: the byte received or the placeholder in the
buffer, and the result latched. -/
theorem gotRead_eq {r : ReadAnswer} (haddr : s.block.desc.addr = s.block.latch.addr) : gotRead P s r w =
    { block := { s.block with
        desc := { addr := s.block.latch.addr, len := 1, valid := false, buf0 := r.rx.getD P.placeholder }
        res := { s.block.res with
          lastRead := r.status
          present := decide (r.status ≠ P.nackCode)
          value := if r.status = P.nackCode then 0 else r.rx.getD P.placeholder } }
      world := { w with
        trace := w.trace ++ [.br s.block.latch.bus s.block.latch.addr 1 P.timeoutUnits true r.status r.rx] } } := by
  rw [gotRead, State.latchResult_eq, ← haddr]
  rfl

/-- Where the operation goes from a read phase answered with `r`, its result latched: RDREG is complete; PROBE advances
past an absent device, and reports a value (R200). -/
def State.afterRegRead (P : Params) (r : ReadAnswer) (s : State) : State :=
  if s.block.seq.opc = .probe then (if r.status = P.nackCode then s.probeAdvance else s.toPhase .pValue)
  else s.complete

theorem State.afterRegRead_rdreg {r : ReadAnswer} (h : s.block.seq.opc = .rdreg) :
    s.afterRegRead P r = s.complete := by
  simp [State.afterRegRead, h]

theorem State.afterRegRead_absent {r : ReadAnswer} (h : s.block.seq.opc = .probe) (hr : r.status = P.nackCode) :
    s.afterRegRead P r = s.probeAdvance := by
  simp [State.afterRegRead, h, hr]

theorem State.afterRegRead_present {r : ReadAnswer} (h : s.block.seq.opc = .probe) (hr : r.status ≠ P.nackCode) :
    s.afterRegRead P r = s.toPhase .pValue := by
  simp [State.afterRegRead, h, hr]

/-- A read phase that has been answered (R196, R197). -/
theorem seqStep_regRead {r : ReadAnswer} (ho : s.block.seq.opc = .rdreg ∨ s.block.seq.opc = .probe)
    (hp : s.block.seq.ph = .gRead) (hw : s.world.nextReadAnswer = some (r, w)) :
    seqStep P s = .next ((gotRead P s r w).afterRegRead P r) := by
  have hstatus : (gotRead P s r w).block.res.lastRead = r.status := by
    rw [gotRead, State.latchResult_eq]
    rfl
  rw [seqStep_eq_phaseStep rfl hp (Phase.usedBy_gRead_iff.mpr ho), phaseStep, seqRegRead, State.afterRegRead, ← hstatus]
  simp only [State.busRead, hw, Option.map_some, State.await]
  rfl

/-! ## The table -/

/-- Settles O22: each phase's step; after the read phase the operation, and for PROBE the status, says where it goes. -/
theorem readTransitions : Obligations.ReadTransitions := by
  refine ⟨rfl, rfl, fun P s ho => ⟨fun hp ws w hw => ?write, fun hp haddr r w hw => ?read⟩⟩
  case write =>
    obtain ⟨-, htrace, -, -⟩ := World.nextWriteAnswer_frame hw
    rw [seqStep_regWrite ho hp hw, wrote_eq, htrace]
    rfl
  case read =>
    obtain ⟨-, htrace, -, -⟩ := World.nextReadAnswer_frame hw
    rw [seqStep_regRead ho hp hw, gotRead_eq haddr, htrace]
    rcases ho with ho | ho
    case inl =>
      rw [State.afterRegRead_rdreg (by exact ho), if_pos ho, if_pos ho]
      rfl
    case inr =>
      have hne : s.block.seq.opc ≠ .rdreg := by simp [ho]
      rw [if_neg hne, if_neg hne]
      by_cases hnack : r.status = P.nackCode
      · rw [State.afterRegRead_absent (by exact ho) hnack, if_pos hnack, if_pos hnack]
        rfl
      · rw [State.afterRegRead_present (by exact ho) hnack, if_neg hnack, if_neg hnack]
        rfl

/-- Settles O31: each step is determined up to the status, which stands only in `LAST_WSTATUS` and in the event. -/
theorem writeStatusIgnored : Obligations.WriteStatusIgnored := by
  intro P s t t' w ws ws' rest hp hs h h'
  obtain rfl := seqStep_regWrite_listed hs hp h
  obtain rfl := seqStep_regWrite_listed hs hp h'
  rw [wrote_eq, wrote_eq, ← World.serves_trace hs]
  exact ⟨rfl, rfl, rfl, rfl, rfl⟩

end Sys2Proof.Machine
end

section
/-! PROOFS. A whole register read (R191, R197): its two phases in two steps, and with them the whole of RDREG. -/

namespace Sys2Proof.Machine

variable {s : State} {w v : World}

/-- The state after both phases of a register read have been answered, the write phase with `ws`, the read phase with `r`,
leaving the world `v`: exactly two requests (R191), and the result latched (R197). -/
def State.registerRead (P : Params) (ws : StatusCode) (r : ReadAnswer) (v : World) (s : State) : State where
  block := { s.block with
    desc := { addr := s.block.latch.addr, len := 1, valid := false, buf0 := r.rx.getD P.placeholder }
    seq := { s.block.seq with ph := .gRead }
    res := { present := decide (r.status ≠ P.nackCode)
             value := if r.status = P.nackCode then 0 else r.rx.getD P.placeholder
             lastWrite := ws
             lastRead := r.status } }
  world := { v with
    trace := s.world.trace ++ readTrace P s.block.latch.bus s.block.latch.addr s.block.latch.reg ws r }

/-- A register read whose two requests are answered takes two steps (R191). -/
theorem run_registerRead {ws : StatusCode} {r : ReadAnswer} (ho : s.block.seq.opc = .rdreg ∨ s.block.seq.opc = .probe)
    (hp : s.block.seq.ph = .gWrite) (hhost : s.world.host = []) (hwrite : s.world.nextWriteAnswer = some (ws, w))
    (hread : w.nextReadAnswer = some (r, v)) :
    run 2 s = .next ((s.registerRead Config.params ws r v).afterRegRead Config.params r) := by
  obtain ⟨hhost', htrace, -, -⟩ := World.nextWriteAnswer_frame hwrite
  obtain ⟨-, htrace', -, -⟩ := World.nextReadAnswer_frame hread
  have hfirst : step s = .next ((wrote Config.params s ws w).toPhase .gRead) :=
    (step_silent hhost).trans (seqStep_regWrite ho hp hwrite)
  have hsecond : step ((wrote Config.params s ws w).toPhase .gRead) = .next _ :=
    (step_silent (hhost'.trans hhost)).trans
      (seqStep_regRead ho rfl (World.nextReadAnswer_record _ hread))
  rw [run_succ hfirst, run_succ hsecond, State.registerRead, readTrace, List.append_cons, ← htrace, ← htrace',
    gotRead_eq rfl]
  rfl

/-- The state in which an idle block has just taken an RDREG (R110, R190). -/
def State.rdregTaken (bus : Byte) (addr : DevAddr) (reg : Byte) (s : State) : State :=
  { s with block := Block.loadRdreg bus addr reg { s.block with flags := s.block.flags.accepted } }

/-- Settles O27: the accepted command is one register read, after which RDREG is complete. -/
theorem rdregRunsToCompletion : Obligations.RdregRunsToCompletion := by
  intro bus addr reg s hidle hhost ws w r v hwrite hread
  refine ⟨s.rdregTaken bus addr reg, exec_idle (.rdreg bus addr reg) hidle, ?_⟩
  rw [run_registerRead (s := s.rdregTaken bus addr reg) (.inl rfl) rfl hhost hwrite hread, State.afterRegRead_rdreg rfl]
  rfl

end Sys2Proof.Machine
end

section
/-! PROOFS. The transitions of PROBE (R217): the loop control, whose conditions are tested in their order, and the
reports. -/

namespace Sys2Proof.Machine

variable {P : Params} {s : State} {w : World}

/-! ## The loop control (R213, R216) -/

/-- In `PH_P_NEXT` the sequencer's step is the loop control's. -/
theorem seqStep_pNext (ho : s.block.seq.opc = .probe) (hp : s.block.seq.ph = .pNext) : seqStep P s = seqProbeNext s :=
  seqStep_eq_phaseStep ho hp rfl

theorem seqProbeNext_complete (hk : s.block.seq.k = s.block.cfg.repeatCount) : seqProbeNext s = .next s.complete := by
  rw [seqProbeNext, if_pos hk]

theorem seqProbeNext_mark (hk : s.block.seq.k ≠ s.block.cfg.repeatCount) (hi : s.block.seq.i = s.block.cfg.naddr) :
    seqProbeNext s = .next (s.toPhase .pMark) := by
  rw [seqProbeNext, if_neg hk, if_pos hi]

theorem seqProbeNext_nextRow (hk : s.block.seq.k ≠ s.block.cfg.repeatCount) (hi : s.block.seq.i ≠ s.block.cfg.naddr)
    (hj : s.block.seq.j = s.block.cfg.nreg) : seqProbeNext s = .next
      { s with block := { s.block with seq := { s.block.seq with i := s.block.seq.i + 1, j := 0, ph := .pNext } } } := by
  rw [seqProbeNext, if_neg hk, if_neg hi, if_pos hj]

/-- The pair at the two indices is loaded for the next read (R213). -/
theorem Block.loadPair_eq {b : Block} {addr : DevAddr} {reg : Byte} (ha : b.cfg.addrs[b.seq.i.toNat]? = some addr)
    (hr : b.cfg.regs[b.seq.j.toNat]? = some reg) :
    b.loadPair = some { b with latch := { b.latch with addr := addr, reg := reg } } := by
  simp only [Block.loadPair, ha, hr]

theorem seqProbeNext_read {addr : DevAddr} {reg : Byte} (hk : s.block.seq.k ≠ s.block.cfg.repeatCount)
    (hi : s.block.seq.i ≠ s.block.cfg.naddr) (hj : s.block.seq.j ≠ s.block.cfg.nreg)
    (ha : s.block.cfg.addrs[s.block.seq.i.toNat]? = some addr) (hr : s.block.cfg.regs[s.block.seq.j.toNat]? = some reg) :
    seqProbeNext s = .next { s with block := { s.block with
      latch := { s.block.latch with addr := addr, reg := reg }
      seq := { s.block.seq with ph := .gWrite } } } := by
  simp only [seqProbeNext, if_neg hk, if_neg hi, if_neg hj, Block.loadPair_eq ha hr]
  rfl

/-! ## The reports (R215, R218) -/

/-- A value that has been reported (R215). -/
theorem seqStep_pValue (ho : s.block.seq.opc = .probe) (hp : s.block.seq.ph = .pValue) (hw : s.world.sinkTakes = some w) :
    seqStep P s = .next
      (s.afterEvent (.rp (.regValue s.block.latch.addr s.block.latch.reg s.block.res.value)) w).probeAdvance := by
  rw [seqStep_eq_phaseStep ho hp rfl, phaseStep, seqProbeValue, State.reportThen_taken _ _ hw]

/-- The mark that ends a sweep, taken (R218). -/
theorem seqStep_pMark (ho : s.block.seq.opc = .probe) (hp : s.block.seq.ph = .pMark) (hw : s.world.sinkTakes = some w) :
    seqStep P s = .next ((s.afterEvent (.rp .sweepDone) w).toPhase .pFlush) := by
  rw [seqStep_eq_phaseStep ho hp rfl, phaseStep, seqProbeMark, State.reportThen_taken _ _ hw]

/-- The flush after the mark, taken (R218). -/
theorem seqStep_pFlush (ho : s.block.seq.opc = .probe) (hp : s.block.seq.ph = .pFlush) (hw : s.world.sinkTakes = some w) :
    seqStep P s = .next (s.afterEvent (.rp .flush) w).nextSweep := by
  rw [seqStep_eq_phaseStep ho hp rfl, phaseStep, seqProbeFlush, State.reportThen_taken _ _ hw]

/-! ## The table -/

/-- Settles O23: the wait that ends the reset sequence, the loop control by its conditions, the read phase by its status,
and the reports. -/
theorem probeTransitions : Obligations.ProbeTransitions := by
  refine fun P s ho => ⟨fun hp w hw => ?wait, fun hp => ?loop, fun hp r w hw => ?read, fun w hw => ?reports⟩
  case wait =>
    rw [seqStep_wait true (.inr ho) hp hw, State.afterWait_probe (by exact ho), ← World.serves_trace hw]
    rfl
  case loop =>
    rw [seqStep_pNext ho hp]
    refine ⟨seqProbeNext_complete, seqProbeNext_mark, fun hk hi hj => ?_,
      fun hk hi hj addr reg ha hr => seqProbeNext_read hk hi hj ha hr⟩
    rw [seqProbeNext_nextRow hk hi hj, ← hp]
  case read =>
    refine ⟨_, seqStep_regRead (.inr ho) hp hw, ?_⟩
    by_cases hnack : r.status = P.nackCode
    · rw [State.afterRegRead_absent (by exact ho) hnack, if_pos hnack]
      rfl
    · rw [State.afterRegRead_present (by exact ho) hnack, if_neg hnack]
      rfl
  case reports =>
    rw [← World.serves_trace hw]
    exact ⟨fun hp => seqStep_pValue ho hp hw, fun hp => seqStep_pMark ho hp hw, fun hp => seqStep_pFlush ho hp hw⟩

end Sys2Proof.Machine
end

section
/-! PROOFS. The reset sequence of a PROBE (R211): after a failing drive the block stays idle, so no bus request and no
record follows. -/

namespace Sys2Proof.Machine

variable {s : State}

/-- The state in which an idle block has just taken a PROBE (R110, R210). -/
def State.probeTaken (s : State) : State :=
  { s with block := Block.loadProbe { s.block with flags := s.block.flags.accepted } }

/-- Settles O29: a failing drive of either level ends the PROBE for ever, the high one after the low half has run. -/
theorem probeAbandonedByPinFault : Obligations.ProbeAbandonedByPinFault := by
  refine fun s hidle hhost => ⟨s.probeTaken, exec_idle .probe hidle, fun w₁ hpin n => ?lowFails,
    fun w₁ w₂ w₃ hpin hdelay hpin' n => ?highFails⟩
  case lowFails =>
    obtain ⟨-, htrace, -, -⟩ := World.nextPinAnswer_frame hpin
    rw [← htrace]
    exact ⟨_, run_pinFault (s := s.probeTaken) false (.inr rfl) rfl hhost hpin n, rfl, rfl, rfl, rfl⟩
  case highFails =>
    obtain ⟨hhost₁, htrace₁, -, -⟩ := World.nextPinAnswer_frame hpin
    obtain ⟨hhost₂, -, -, -, -, htrace₂, -, -⟩ := World.serves_frame hdelay
    obtain ⟨-, htrace₃, -, -⟩ := World.nextPinAnswer_frame hpin'
    have hsilent : w₂.host = [] := hhost₂.trans (hhost₁.trans hhost)
    have hsteps : n + 3 = 2 + (n + 1) := by omega
    have hlow := run_driveAndWait (s := s.probeTaken) false (.inr rfl) rfl hhost hpin hdelay
    have hrecorded := World.nextPinAnswer_record (.dl s.block.cfg.lowMs)
      (World.nextPinAnswer_record (.pl s.block.cfg.pin .ok) hpin')
    rw [← htrace₁, ← htrace₂, ← htrace₃, List.append_cons, List.append_cons, hsteps]
    exact ⟨_, (run_add hlow (n + 1)).trans (run_pinFault true (.inr rfl) rfl hsilent hrecorded n), rfl, rfl, rfl, rfl⟩

end Sys2Proof.Machine
end

section
/-! PROOFS. Runs that read registers: what the reads leave of the block, the answers they consume and their events; all of
it adds up along a run (`Progress.trans`). -/

namespace Sys2Proof.Machine

variable {P : Params} {s t u : State}

/-! ## Answers begin with the listed ones (R70) -/

/-- The answers drawn are those listed, as far as the list reaches. -/
def Listed {α : Type} (drawn listed : List α) : Prop := drawn.take listed.length = listed.take drawn.length

theorem Listed.nil {α : Type} (listed : List α) : Listed [] listed := by simp [Listed]

/-- What is drawn after `xs` is drawn from the list without its first `xs.length` answers. -/
theorem Listed.append {α : Type} {xs ys listed : List α} (hx : Listed xs listed) (hy : Listed ys (listed.drop xs.length)) :
    Listed (xs ++ ys) listed := by
  unfold Listed at *
  rw [List.length_drop] at hy
  rw [List.take_append, List.length_append, List.take_add, hx, hy]

theorem World.drawWrite_listed (w : World) : Listed [w.drawWrite.1] w.writeAnswers := by
  unfold World.drawWrite Listed
  cases w.writeAnswers <;> simp

theorem World.drawRead_listed (w : World) : Listed [w.drawRead.1] w.readAnswers := by
  unfold World.drawRead Listed
  cases w.readAnswers <;> simp

theorem World.nextReadAnswer_always {w : World} (h : w.bus = none) :
    w.nextReadAnswer = some (w.drawRead.1, w.drawRead.2) := by
  rw [World.nextReadAnswer, World.serves_always (c := .bus) h]
  rfl

/-- The world after the two answers of a register read, `draws` free values drawn. -/
def World.bothDrawn (draws : Nat) (w : World) : World :=
  { w with writeAnswers := w.writeAnswers.drop 1, readAnswers := w.readAnswers.drop 1, oracleDraws := draws }

/-- The two answers are the first of their lists; nothing else changes but the draw counter. -/
theorem World.drawRead_drawWrite (w : World) : ∃ draws, w.drawWrite.2.drawRead.2 = w.bothDrawn draws := by
  unfold World.drawWrite World.drawRead World.bothDrawn
  cases w.writeAnswers <;> cases w.readAnswers <;> simp

theorem World.drawPin_world (w : World) : w.drawPin.2 =
    { w with pinAnswers := w.pinAnswers.drop 1, oracleDraws := w.drawPin.2.oracleDraws } := by
  unfold World.drawPin
  cases w.pinAnswers <;> simp

/-- The answer to a drive is the first of its list; nothing else changes but the draw counter and how many more the GPIO
gives. -/
theorem World.nextPinAnswer_world {w v : World} {r : PinAnswer} (h : w.nextPinAnswer = some (r, v)) : v =
    { w with pinAnswers := w.pinAnswers.drop 1, gpio := v.gpio, oracleDraws := v.oracleDraws } := by
  obtain ⟨served, hserved, hdrawn⟩ := Option.map_eq_some_iff.mp h
  obtain ⟨-, hleft⟩ := World.serves_some hserved
  obtain rfl : served.drawPin.2 = v := congrArg Prod.snd hdrawn
  rw [World.drawPin_world, hleft]
  rfl

/-! ## What register reads leave -/

/-- A register read and the answers to its two requests. -/
abbrev RegRead := (DevAddr × Byte) × (StatusCode × ReadAnswer)

/-- The block after a register read: its descriptor, operand latches and result latches (R192, R195, R197, R213). -/
def Block.afterRead (P : Params) (x : RegRead) (b : Block) : Block :=
  { b with
    desc := { addr := x.1.1, len := 1, valid := false, buf0 := x.2.2.rx.getD P.placeholder }
    latch := { b.latch with addr := x.1.1, reg := x.1.2 }
    res := { present := (readResult P x.2.2).isSome, value := (readResult P x.2.2).getD 0
             lastWrite := x.2.1, lastRead := x.2.2.status } }

/-- The block after register reads is what the last of them leaves. -/
def Block.afterReads (P : Params) (reads : List RegRead) (b : Block) : Block :=
  match reads.getLast? with
  | none => b
  | some x => b.afterRead P x

@[simp] theorem Block.afterReads_cfg (P : Params) (reads : List RegRead) (b : Block) :
    (b.afterReads P reads).cfg = b.cfg := by
  unfold Block.afterReads; split <;> rfl

@[simp] theorem Block.afterReads_latch_bus (P : Params) (reads : List RegRead) (b : Block) :
    (b.afterReads P reads).latch.bus = b.latch.bus := by
  unfold Block.afterReads; split <;> rfl

/-- Later reads leave what they leave after the earlier ones, wherever the sequencer stands between. -/
theorem Block.afterReads_append (P : Params) (xs ys : List RegRead) (q q' : Sequencer) (b : Block) :
    { ({ b.afterReads P xs with seq := q } : Block).afterReads P ys with seq := q' } =
      { b.afterReads P (xs ++ ys) with seq := q' } := by
  unfold Block.afterReads
  rw [List.getLast?_append]
  cases ys.getLast? with
  | none => rfl
  | some y => cases xs.getLast? <;> rfl

theorem readResult_isSome (P : Params) (r : ReadAnswer) : (readResult P r).isSome = decide (r.status ≠ P.nackCode) := by
  unfold readResult; split <;> simp [*]

theorem readResult_getD (P : Params) (r : ReadAnswer) :
    (readResult P r).getD 0 = if r.status = P.nackCode then 0 else r.rx.getD P.placeholder := by
  unfold readResult; split <;> rfl

/-- One register read, its result by the status (R197, R199). -/
theorem Block.afterReads_singleton (P : Params) (pair : DevAddr × Byte) (ws : StatusCode) (r : ReadAnswer) (b : Block) :
    b.afterReads P [(pair, (ws, r))] = { b with
      desc := { addr := pair.1, len := 1, valid := false, buf0 := r.rx.getD P.placeholder }
      latch := { b.latch with addr := pair.1, reg := pair.2 }
      res := { present := decide (r.status ≠ P.nackCode)
               value := if r.status = P.nackCode then 0 else r.rx.getD P.placeholder
               lastWrite := ws, lastRead := r.status } } := by
  rw [← readResult_isSome, ← readResult_getD]
  rfl

/-! ## Runs that read registers -/

/-- The state reached from `s` by the register reads `reads` with the events `events`: the sequencer is in `q`, and the
environment has drawn `draws` free values. -/
def State.progressed (P : Params) (reads : List RegRead) (events : List PortEvent) (q : Sequencer) (draws : Nat)
    (s : State) : State where
  block := { s.block.afterReads P reads with seq := q }
  world := { s.world with
    writeAnswers := s.world.writeAnswers.drop reads.length
    readAnswers := s.world.readAnswers.drop reads.length
    oracleDraws := draws
    trace := s.world.trace ++ events }

theorem State.progressed_progressed (xs ys : List RegRead) (es fs : List PortEvent) (q q' : Sequencer) (d d' : Nat) :
    (s.progressed P xs es q d).progressed P ys fs q' d' = s.progressed P (xs ++ ys) (es ++ fs) q' d' := by
  unfold State.progressed
  rw [Block.afterReads_append]
  simp only [List.drop_drop, List.length_append, List.append_assoc]

/-- Some steps lead from `s` to `t`; on the way the registers `reads` are read, with the answers the environment gives,
and the events are `events`. -/
structure Progress (s t : State) (reads : List RegRead) (events : List PortEvent) : Prop where
  runs : ∃ n, run n s = .next t
  arrives : ∃ draws, t = s.progressed Config.params reads events t.block.seq draws
  writes : Listed (reads.map fun x => x.2.1) s.world.writeAnswers
  answers : Listed (reads.map fun x => x.2.2) s.world.readAnswers

/-- Steps without a register read. -/
theorem Progress.of_run {n : Nat} {events : List PortEvent} (h : run n s = .next t)
    (hb : t.block = { s.block with seq := t.block.seq })
    (hw : t.world = { s.world with trace := s.world.trace ++ events }) : Progress s t [] events where
  runs := ⟨n, h⟩
  arrives := ⟨s.world.oracleDraws, by
    obtain ⟨tb, tw⟩ := t
    obtain rfl : tw = _ := hw
    rw [State.progressed]
    exact congrArg (State.mk · _) hb⟩
  writes := Listed.nil _
  answers := Listed.nil _

theorem Progress.refl (s : State) : Progress s s [] [] :=
  .of_run (n := 0) rfl rfl (by rw [List.append_nil])

/-- Reads, events and consumed answers of two runs add up. -/
theorem Progress.trans {xs ys : List RegRead} {es fs : List PortEvent} (h : Progress s t xs es) (h' : Progress t u ys fs) :
    Progress s u (xs ++ ys) (es ++ fs) := by
  obtain ⟨⟨n, hrun⟩, ⟨d, ht⟩, hwrites, hreads⟩ := h
  obtain ⟨⟨m, hrun'⟩, ⟨d', hu⟩, hwrites', hreads'⟩ := h'
  rw [ht] at hu hwrites' hreads'
  refine ⟨⟨n + m, (run_add hrun m).trans hrun'⟩, ⟨d', hu.trans (State.progressed_progressed ..)⟩, ?_, ?_⟩
  · rw [List.map_append]
    exact hwrites.append (by rw [List.length_map]; exact hwrites')
  · rw [List.map_append]
    exact hreads.append (by rw [List.length_map]; exact hreads')

end Sys2Proof.Machine
end

section
/-! PROOFS. The sweeps of a PROBE (R212 to R218) where the bus answers every request and the sink takes every record: one
induction on the registers of a row, one on the rows of a sweep and one on the sweeps. -/

namespace Sys2Proof.Machine

variable {P : Params} {s t : State} {c : Cfg}

/-! ## The Probe Loop under way -/

/-- A PROBE in its loop control, configured by `c`; the host is silent, the bus answers every request and the sink takes
every record. -/
structure Probing (c : Cfg) (s : State) : Prop where
  opc : s.block.seq.opc = .probe
  phase : s.block.seq.ph = .pNext
  cfg : s.block.cfg = c
  bus_latch : s.block.latch.bus = c.bus
  lists : CfgInv c
  host : s.world.host = []
  bus : s.world.bus = none
  sink : s.world.sink = none

/-- A run that ends with nothing but other indices keeps the loop under way. -/
theorem Probing.progress {xs : List RegRead} {es : List PortEvent} {k : BitVec 16} {i j : BitVec 5} (h : Probing c s)
    (hp : Progress s t xs es) (ht : t.block.seq = { s.block.seq with k := k, i := i, j := j }) : Probing c t := by
  obtain ⟨-, ⟨d, harrives⟩, -, -⟩ := hp
  refine ⟨?_, ?_, ?_, ?_, h.lists, ?_, ?_, ?_⟩
  · rw [ht]
    exact h.opc
  · rw [ht]
    exact h.phase
  all_goals rw [harrives]
  · exact (Block.afterReads_cfg ..).trans h.cfg
  · exact (Block.afterReads_latch_bus ..).trans h.bus_latch
  · exact h.host
  · exact h.bus
  · exact h.sink

/-- A step of the loop is the loop control's. -/
theorem Probing.step_eq (h : Probing c s) : step s = seqProbeNext s :=
  (step_silent h.host).trans (seqStep_pNext h.opc h.phase)

/-! ## One pair -/

/-- The events of register reads of PROBE, with the report of each value (R214, R215). -/
def Cfg.readEvents (P : Params) (c : Cfg) (reads : List RegRead) : List PortEvent :=
  reads.flatMap fun x => pairTrace P c.bus x.1 x.2

theorem pairTrace_absent (bus : Byte) (pair : DevAddr × Byte) {ws : StatusCode} {r : ReadAnswer}
    (h : r.status = P.nackCode) : pairTrace P bus pair (ws, r) = readTrace P bus pair.1 pair.2 ws r := by
  simp [pairTrace, readResult, h]

theorem pairTrace_present (bus : Byte) (pair : DevAddr × Byte) {ws : StatusCode} {r : ReadAnswer}
    (h : r.status ≠ P.nackCode) : pairTrace P bus pair (ws, r) =
      readTrace P bus pair.1 pair.2 ws r ++ [.rp (.regValue pair.1 pair.2 ((readResult P r).getD 0))] := by
  simp [pairTrace, readResult, h]

/-- The state in which the loop control has loaded a pair (R213). -/
def State.pairLoaded (addr : DevAddr) (reg : Byte) (s : State) : State :=
  { s with block := { s.block with
      latch := { s.block.latch with addr := addr, reg := reg }
      seq := { s.block.seq with ph := .gWrite } } }

/-- A register read of a loaded pair leaves what `State.progressed` says of one read. -/
theorem State.registerRead_pairLoaded (addr : DevAddr) (reg : Byte) (ws : StatusCode) (r : ReadAnswer) (draws : Nat) :
    (s.pairLoaded addr reg).registerRead P ws r (s.world.bothDrawn draws) =
      s.progressed P [((addr, reg), (ws, r))] (readTrace P s.block.latch.bus addr reg ws r)
        { s.block.seq with ph := .gRead } draws := by
  rw [State.progressed, Block.afterReads_singleton]
  rfl

/-- The register read of a loaded pair, the value reported if there is one, leads back to the loop control (R214 to
R216). -/
theorem Probing.run_pairLoaded (h : Probing c s) (addr : DevAddr) (reg : Byte) {ws : StatusCode} {r : ReadAnswer}
    {w : World} {draws : Nat} (hwrite : s.world.nextWriteAnswer = some (ws, w))
    (hread : w.nextReadAnswer = some (r, s.world.bothDrawn draws)) :
    ∃ n, run n (s.pairLoaded addr reg) = .next (s.progressed Config.params [((addr, reg), (ws, r))]
      (pairTrace Config.params c.bus (addr, reg) (ws, r)) { s.block.seq with j := s.block.seq.j + 1, ph := .pNext }
      draws) := by
  have hrun := run_registerRead (s := s.pairLoaded addr reg) (.inr h.opc) rfl h.host hwrite hread
  rw [State.registerRead_pairLoaded, h.bus_latch] at hrun
  by_cases hnack : r.status = Config.params.nackCode
  case pos =>
    rw [State.afterRegRead_absent (by exact h.opc) hnack] at hrun
    rw [pairTrace_absent _ _ hnack]
    exact ⟨2, hrun⟩
  case neg =>
    rw [State.afterRegRead_present (by exact h.opc) hnack] at hrun
    refine ⟨2 + 1, (run_add hrun 1).trans ((run_succ (n := 0) (Eq.trans (step_silent ?host)
      (seqStep_pValue ?opc ?phase (World.serves_always (c := .sink) ?sink)))).trans ?reported)⟩
    case host => exact h.host
    case opc => exact h.opc
    case phase => rfl
    case sink => exact h.sink
    case reported =>
      rw [pairTrace_present _ _ hnack, State.progressed, State.progressed, ← List.append_assoc]
      rfl

/-- One pair: the loop control loads it, it is read, and the loop control is at the next register (R213 to R216). -/
theorem Probing.read_pair (h : Probing c s) {addr : DevAddr} {reg : Byte} (hk : s.block.seq.k ≠ c.repeatCount)
    (hi : s.block.seq.i ≠ c.naddr) (hj : s.block.seq.j ≠ c.nreg) (ha : c.addrs[s.block.seq.i.toNat]? = some addr)
    (hr : c.regs[s.block.seq.j.toNat]? = some reg) :
    ∃ t x, Progress s t [((addr, reg), x)] (c.readEvents Config.params [((addr, reg), x)]) ∧
      t.block.seq = { s.block.seq with j := s.block.seq.j + 1 } := by
  have hload : step s = .next (s.pairLoaded addr reg) := by
    rw [← h.cfg] at hk hi hj ha hr
    rw [h.step_eq, seqProbeNext_read hk hi hj ha hr]
    rfl
  obtain ⟨draws, hdrawn⟩ := World.drawRead_drawWrite s.world
  have hread := World.nextReadAnswer_always ((World.drawWrite_bus s.world).trans h.bus)
  rw [hdrawn] at hread
  obtain ⟨n, hrun⟩ := h.run_pairLoaded addr reg (World.nextWriteAnswer_always h.bus) hread
  refine ⟨_, (s.world.drawWrite.1, s.world.drawWrite.2.drawRead.1),
    ⟨⟨n + 1, (run_succ hload).trans hrun⟩, ⟨draws, ?_⟩, s.world.drawWrite_listed, ?_⟩, ?_⟩
  · rw [Cfg.readEvents, List.flatMap_singleton]
    rfl
  · rw [← World.drawWrite_readAnswers s.world]
    exact s.world.drawWrite.2.drawRead_listed
  · rw [← h.phase]
    rfl

/-! ## One row: the registers of one address (R212) -/

theorem Cfg.readEvents_append (P : Params) (c : Cfg) (xs ys : List RegRead) :
    c.readEvents P (xs ++ ys) = c.readEvents P xs ++ c.readEvents P ys := List.flatMap_append

/-- The pairs of one address, register by register. -/
def Cfg.row (c : Cfg) (addr : DevAddr) : List (DevAddr × Byte) :=
  (c.regs.toList.take c.nreg.toNat).map fun reg => (addr, reg)

theorem Cfg.matrix_eq (c : Cfg) : c.matrix = (c.addrs.toList.take c.naddr.toNat).flatMap c.row := rfl

/-- The first `n` entries of a candidate list from an index on begin with the entry there. -/
theorem drop_take_toList_eq_cons {α : Type} {v : Vector α 16} {i n : Nat} {a : α} (hi : i < n) (h : v[i]? = some a) :
    (v.toList.take n).drop i = a :: (v.toList.take n).drop (i + 1) := by
  rw [List.drop_eq_getElem?_toList_append, List.getElem?_take_of_lt hi, Vector.getElem?_toList, h]
  rfl

/-- The registers left of a row are read, with the loop control at its end. -/
theorem Probing.read_row {n : Nat} (h : Probing c s) {addr : DevAddr} (hk : s.block.seq.k ≠ c.repeatCount)
    (hi : s.block.seq.i ≠ c.naddr) (ha : c.addrs[s.block.seq.i.toNat]? = some addr)
    (hj : s.block.seq.j.toNat + n = c.nreg.toNat) :
    ∃ t reads, reads.map Prod.fst = (c.row addr).drop s.block.seq.j.toNat ∧
      Progress s t reads (c.readEvents Config.params reads) ∧ t.block.seq = { s.block.seq with j := c.nreg } := by
  induction n generalizing s with
  | zero =>
    have hend : s.block.seq.j = c.nreg := BitVec.eq_of_toNat_eq hj
    refine ⟨s, [], ?_, Progress.refl s, by rw [← hend]⟩
    simp [Cfg.row, ← hj]
  | succ n ih =>
    have hlists := h.lists.nreg_le
    have hne : s.block.seq.j ≠ c.nreg := by bv_omega
    have hreg : c.regs[s.block.seq.j.toNat]? = some _ := Vector.getElem?_eq_getElem (by omega)
    obtain ⟨t, x, hpair, ht⟩ := h.read_pair hk hi hne ha hreg
    have hnext : t.block.seq.j.toNat = s.block.seq.j.toNat + 1 := by rw [ht]; bv_omega
    obtain ⟨u, reads, hreads, hrest, hu⟩ := ih (h.progress hpair ht) (by rw [ht]; exact hk)
      (by rw [ht]; exact hi) (by rw [ht]; exact ha) (by omega)
    have hall := hpair.trans hrest
    rw [← Cfg.readEvents_append] at hall
    refine ⟨u, _, ?_, hall, by rw [hu, ht]⟩
    rw [List.map_append, hreads, hnext, Cfg.row, ← List.map_drop, ← List.map_drop,
      drop_take_toList_eq_cons (by omega) hreg, List.map_cons]
    rfl

/-! ## One sweep: the rows of the matrix, the mark and the flush (R212, R217, R218) -/

/-- At the end of a row the loop control goes on to the next address. -/
theorem Probing.next_row (h : Probing c s) (hk : s.block.seq.k ≠ c.repeatCount) (hi : s.block.seq.i ≠ c.naddr)
    (hj : s.block.seq.j = c.nreg) :
    ∃ t, Progress s t [] [] ∧ t.block.seq = { s.block.seq with i := s.block.seq.i + 1, j := 0 } := by
  rw [← h.cfg] at hk hi hj
  have hstep := h.step_eq.trans (seqProbeNext_nextRow hk hi hj)
  refine ⟨_, .of_run (run_succ (n := 0) hstep) rfl (by rw [List.append_nil]), ?_⟩
  rw [← h.phase]

/-- The rows left of a sweep are read. -/
theorem Probing.read_rows {n : Nat} (h : Probing c s) (hk : s.block.seq.k ≠ c.repeatCount)
    (hi : s.block.seq.i.toNat + n = c.naddr.toNat) (hj : s.block.seq.j = 0) :
    ∃ t reads, reads.map Prod.fst = ((c.addrs.toList.take c.naddr.toNat).drop s.block.seq.i.toNat).flatMap c.row ∧
      Progress s t reads (c.readEvents Config.params reads) ∧ t.block.seq = { s.block.seq with i := c.naddr } := by
  induction n generalizing s with
  | zero =>
    have hend : s.block.seq.i = c.naddr := BitVec.eq_of_toNat_eq hi
    refine ⟨s, [], ?_, Progress.refl s, by rw [← hend]⟩
    simp [← hi]
  | succ n ih =>
    have hlists := h.lists.naddr_le
    have hne : s.block.seq.i ≠ c.naddr := by bv_omega
    have haddr : c.addrs[s.block.seq.i.toNat]? = some _ := Vector.getElem?_eq_getElem (by omega)
    obtain ⟨t, row, hrow, hread, ht⟩ := h.read_row (n := c.nreg.toNat) hk hne haddr (by simp [hj])
    have h' := h.progress hread ht
    obtain ⟨u, hstep, hu⟩ := h'.next_row (by rw [ht]; exact hk) (by rw [ht]; exact hne) (by rw [ht])
    have h'' := h'.progress hstep hu
    rw [ht] at hu
    have hnext : u.block.seq.i.toNat = s.block.seq.i.toNat + 1 := by rw [hu]; bv_omega
    obtain ⟨v, reads, hreads, hrest, hv⟩ := ih h'' (by rw [hu]; exact hk) (by omega) (by rw [hu])
    have hall := (hread.trans hstep).trans hrest
    rw [List.append_nil, List.append_nil, ← Cfg.readEvents_append] at hall
    refine ⟨v, row ++ reads, ?_, hall, by simp [hv, hu, hj]⟩
    rw [List.map_append, hrow, hreads, hnext, hj, drop_take_toList_eq_cons (by omega) haddr, List.flatMap_cons]
    rfl

/-- After the last row the sweep is marked and flushed, and the next one begins. -/
theorem Probing.end_sweep (h : Probing c s) (hk : s.block.seq.k ≠ c.repeatCount) (hi : s.block.seq.i = c.naddr) :
    ∃ t, Progress s t [] [.rp .sweepDone, .rp .flush] ∧
      t.block.seq = { s.block.seq with k := s.block.seq.k + 1, i := 0, j := 0 } := by
  rw [← h.cfg] at hk hi
  have hsink : s.world.sinkTakes = some s.world := World.serves_always (c := .sink) h.sink
  have hnext : step s = .next (s.toPhase .pMark) := h.step_eq.trans (seqProbeNext_mark hk hi)
  have hmark : step (s.toPhase .pMark) = .next _ :=
    (step_silent (s := s.toPhase .pMark) h.host).trans (seqStep_pMark h.opc rfl hsink)
  have hflush : step (((s.toPhase .pMark).afterEvent (.rp .sweepDone) s.world).toPhase .pFlush) = .next _ :=
    (step_silent (s := ((s.toPhase .pMark).afterEvent _ s.world).toPhase .pFlush) h.host).trans
      (seqStep_pFlush h.opc rfl (World.serves_some_record _ hsink))
  refine ⟨_, .of_run (n := 3) ((run_succ hnext).trans ((run_succ hmark).trans (run_succ hflush))) rfl ?_, ?_⟩
  · rw [List.append_cons]
    rfl
  · rw [State.nextSweep_seq, ← h.phase]
    rfl

/-- The events of one sweep whose register reads are `reads`. -/
def Cfg.sweepEvents (P : Params) (c : Cfg) (reads : List RegRead) : List PortEvent :=
  c.readEvents P reads ++ [.rp .sweepDone, .rp .flush]

/-- One sweep reads the matrix. -/
theorem Probing.sweep (h : Probing c s) (hk : s.block.seq.k ≠ c.repeatCount) (hi : s.block.seq.i = 0)
    (hj : s.block.seq.j = 0) :
    ∃ t reads, reads.map Prod.fst = c.matrix ∧ Progress s t reads (c.sweepEvents Config.params reads) ∧
      t.block.seq = { s.block.seq with k := s.block.seq.k + 1 } := by
  obtain ⟨t, reads, hreads, hrows, ht⟩ := h.read_rows (n := c.naddr.toNat) hk (by simp [hi]) hj
  have h' := h.progress hrows ht
  obtain ⟨u, hend, hu⟩ := h'.end_sweep (by rw [ht]; exact hk) (by rw [ht])
  have hall := hrows.trans hend
  rw [List.append_nil] at hall
  refine ⟨u, reads, ?_, hall, by simp [hu, ht, hi, hj]⟩
  rw [hreads, hi, Cfg.matrix_eq]
  rfl

/-! ## All sweeps -/

/-- The sweeps left are made, with the loop control at their end. -/
theorem Probing.sweeps {n : Nat} (h : Probing c s) (hk : s.block.seq.k.toNat + n = c.repeatCount.toNat)
    (hi : s.block.seq.i = 0) (hj : s.block.seq.j = 0) :
    ∃ t, ∃ sweeps : List (List RegRead), sweeps.length = n ∧ (∀ reads ∈ sweeps, reads.map Prod.fst = c.matrix) ∧
      Progress s t sweeps.flatten (sweeps.flatMap (c.sweepEvents Config.params)) ∧
      t.block.seq = { s.block.seq with k := c.repeatCount } := by
  induction n generalizing s with
  | zero =>
    have hend : s.block.seq.k = c.repeatCount := BitVec.eq_of_toNat_eq hk
    exact ⟨s, [], rfl, by simp, Progress.refl s, by rw [← hend]⟩
  | succ n ih =>
    obtain ⟨t, reads, hreads, hsweep, ht⟩ := h.sweep (by bv_omega) hi hj
    obtain ⟨u, sweeps, hlen, hsweeps, hrest, hu⟩ :=
      ih (h.progress hsweep ht) (by rw [ht]; bv_omega) (by rw [ht]; exact hi) (by rw [ht]; exact hj)
    refine ⟨u, reads :: sweeps, by rw [List.length_cons, hlen], ?_, hsweep.trans hrest, by rw [hu, ht]⟩
    exact List.forall_mem_cons.mpr ⟨hreads, hsweeps⟩

/-- A PROBE in its loop control makes the sweeps left and completes. -/
theorem Probing.completes (h : Probing c s) (hk : s.block.seq.k = 0) (hi : s.block.seq.i = 0) (hj : s.block.seq.j = 0) :
    ∃ n draws, ∃ sweeps : List (List RegRead), sweeps.length = c.repeatCount.toNat ∧
      (∀ reads ∈ sweeps, reads.map Prod.fst = c.matrix) ∧
      Listed (sweeps.flatten.map fun x => x.2.1) s.world.writeAnswers ∧
      Listed (sweeps.flatten.map fun x => x.2.2) s.world.readAnswers ∧
      run n s = .next (s.progressed Config.params sweeps.flatten (sweeps.flatMap (c.sweepEvents Config.params))
        { s.block.seq with k := c.repeatCount } draws).complete := by
  obtain ⟨t, sweeps, hlen, hmatrix, hprogress, ht⟩ := h.sweeps (n := c.repeatCount.toNat) (by simp [hk]) hi hj
  have h' := h.progress hprogress ht
  have hdone : step t = .next t.complete := h'.step_eq.trans (seqProbeNext_complete (by rw [ht, h'.cfg]))
  obtain ⟨⟨n, hrun⟩, ⟨draws, hend⟩, hwrites, hreads⟩ := hprogress
  refine ⟨n + 1, draws, sweeps, hlen, hmatrix, hwrites, hreads, ?_⟩
  rw [← ht, ← hend, run_add hrun, run_succ hdone]
  rfl

end Sys2Proof.Machine
end

section
/-! PROOFS. A whole PROBE (R210, R211): the reset sequence whose drives answer `ok`, and then the sweeps. -/

namespace Sys2Proof.Machine

variable {P : Params} {s : State} {c : Cfg}

/-! ## Reads and answers of the sweeps -/

theorem Cfg.zip_matrix {reads : List RegRead} (h : reads.map Prod.fst = c.matrix) :
    c.matrix.zip (reads.map Prod.snd) = reads := (List.zip_of_prod h rfl).symm

theorem Cfg.readsOf_map {sweeps : List (List RegRead)} (h : ∀ reads ∈ sweeps, reads.map Prod.fst = c.matrix) :
    c.readsOf (sweeps.map (List.map Prod.snd)) = sweeps.flatten := by
  rw [Cfg.readsOf, List.flatMap_map, List.flatten_eq_flatMap]
  exact List.flatMap_congr fun reads hmem => Cfg.zip_matrix (h reads hmem)

theorem probeTrace_map {sweeps : List (List RegRead)} (h : ∀ reads ∈ sweeps, reads.map Prod.fst = c.matrix) :
    probeTrace P c (sweeps.map (List.map Prod.snd)) =
      resetTrace c.pin c.lowMs c.highMs ++ sweeps.flatMap (c.sweepEvents P) := by
  rw [probeTrace, List.flatMap_map]
  refine congrArg _ (List.flatMap_congr fun reads hmem => ?_)
  rw [sweepTrace, Cfg.zip_matrix (h reads hmem)]
  rfl

/-- The matrix has a pair for every address and register of the lists (R212). -/
theorem Cfg.matrix_length (h : CfgInv c) : c.matrix.length = c.naddr.toNat * c.nreg.toNat := by
  obtain ⟨haddrs, hregs⟩ := h
  have hrow : ∀ addr, (c.row addr).length = c.nreg.toNat := fun addr => by simp [Cfg.row, hregs]
  simp only [Cfg.matrix_eq, List.length_flatMap, hrow, List.map_const', List.sum_replicate, List.length_take,
    Vector.length_toList, Nat.min_eq_left haddrs, smul_eq_mul]

/-! ## From the reset sequence to the end -/

/-- The state in which PROBE comes from its reset sequence to its loop control, the environment left as in `w` (R217). -/
def State.resetDone (w : World) (s : State) : State where
  block := { s.block with seq := { s.block.seq with ph := .pNext } }
  world := { w with
    trace := s.world.trace ++ resetTrace s.block.latch.pin s.block.latch.low s.block.latch.high }

/-- A reset sequence whose requests are answered takes four steps (R175, R176). -/
theorem run_resetSequence {w₁ w₂ w₃ w₄ : World} (ho : s.block.seq.opc = .probe) (hp : s.block.seq.ph = .dLow)
    (hhost : s.world.host = []) (hpin : s.world.nextPinAnswer = some (.ok, w₁)) (hdelay : w₁.serves .delay = some w₂)
    (hpin' : w₂.nextPinAnswer = some (.ok, w₃)) (hdelay' : w₃.serves .delay = some w₄) :
    run 4 s = .next (s.resetDone w₄) := by
  obtain ⟨hhost₁, htrace₁, -, -⟩ := World.nextPinAnswer_frame hpin
  obtain ⟨hhost₂, -, -, -, -, htrace₂, -, -⟩ := World.serves_frame hdelay
  obtain ⟨-, htrace₃, -, -⟩ := World.nextPinAnswer_frame hpin'
  have hsilent : w₂.host = [] := hhost₂.trans (hhost₁.trans hhost)
  have hlow := run_driveAndWait false (.inr ho) hp hhost hpin hdelay
  refine (run_add hlow 2).trans ((run_driveAndWait true (.inr (by exact ho)) (by rfl) (by exact hsilent)
    (World.nextPinAnswer_record _ (World.nextPinAnswer_record _ hpin'))
    (World.serves_some_record _ (World.serves_some_record _ hdelay'))).trans ?_)
  rw [State.afterWait_probe (by exact ho), State.resetDone, resetTrace, List.append_cons, List.append_cons,
    List.append_cons, ← htrace₁, ← htrace₂, ← htrace₃, ← World.serves_trace hdelay']
  rfl

/-- Two drives take the first two listed answers; nothing else changes but the draw counter and how many more the GPIO
gives. -/
theorem World.twoPinAnswers_world {w w₁ w₂ : World} {r r' : PinAnswer} (h : w.nextPinAnswer = some (r, w₁))
    (h' : w₁.nextPinAnswer = some (r', w₂)) : w₂ =
      { w with pinAnswers := w.pinAnswers.drop 2, gpio := w₂.gpio, oracleDraws := w₂.oracleDraws } := by
  refine (World.nextPinAnswer_world h').trans ?_
  rw [World.nextPinAnswer_world h, List.drop_drop]

/-- A PROBE whose reset sequence is done makes all its sweeps. -/
theorem Probing.of_resetDone {w : World} (hlists : CfgInv s.block.cfg) (hhost : w.host = []) (hbus : w.bus = none)
    (hsink : w.sink = none) : Probing s.block.cfg (s.probeTaken.resetDone w) where
  opc := rfl
  phase := rfl
  cfg := rfl
  bus_latch := rfl
  lists := hlists
  host := hhost
  bus := hbus
  sink := hsink

/-- Settles O28: the reset sequence, then all sweeps by `Probing.completes`. -/
theorem probeRunsToCompletion : Obligations.ProbeRunsToCompletion := by
  intro s hidle hhost hbus hdelay hsink hlists w₁ w₂ hpin hpin'
  have hdelay₁ : w₁.delay = none := by rw [World.nextPinAnswer_world hpin]; exact hdelay
  have hworld := World.twoPinAnswers_world hpin hpin'
  have hdelay₂ : w₂.delay = none := by rw [hworld]; exact hdelay
  have hreset := run_resetSequence (s := s.probeTaken) rfl rfl hhost hpin (World.serves_always hdelay₁) hpin'
    (World.serves_always hdelay₂)
  obtain ⟨n, draws, sweeps, hlen, hmatrix, hwrites, hreads, hrun⟩ := (Probing.of_resetDone (s := s) (w := w₂) hlists
    (by rw [hworld]; exact hhost) (by rw [hworld]; exact hbus) (by rw [hworld]; exact hsink)).completes rfl rfl rfl
  have hanswers : (sweeps.map (List.map Prod.snd)).flatten = sweeps.flatten.map Prod.snd := List.map_flatten.symm
  refine ⟨s.probeTaken, sweeps.map (List.map Prod.snd), 4 + n, _, exec_idle .probe hidle, (run_add hreset n).trans hrun,
    by rw [List.length_map, hlen], ?lengths, ?writes, ?reads, ?block, ?world⟩
  case lengths =>
    simp only [List.forall_mem_map, List.length_map]
    intro reads hmem
    rw [← Cfg.matrix_length hlists, ← hmatrix reads hmem, List.length_map]
  case writes =>
    rw [State.resetDone, hworld, Listed, List.length_map] at hwrites
    rw [hanswers, List.map_map, List.length_map]
    exact hwrites
  case reads =>
    rw [State.resetDone, hworld, Listed, List.length_map] at hreads
    rw [hanswers, List.map_map, List.length_map]
    exact hreads
  case block =>
    rw [Cfg.readsOf_map hmatrix, State.progressed, Block.afterReads]
    cases sweeps.flatten.getLast? <;> rfl
  case world =>
    rw [probeTrace_map hmatrix, hanswers, List.length_map, ← List.append_assoc, State.progressed, State.resetDone, hworld]
    rfl

end Sys2Proof.Machine
end

section
/-! PROOFS. PinFault, Overrun and the idle block (R233, R235, R246): a failing drive leaves an idle block, a busy block drops
what is written to it, and an idle block waits. -/

namespace Sys2Proof.Machine

variable {s : State} {rest : List HostTurn}

/-! ## The idle block (R246, R260) -/

/-- Settles O19: `run_idle`, an induction on the steps, each of which is the idle phase's. -/
theorem idleBlockWaits : Obligations.IdleBlockWaits := fun _ n ho hp hsilent => run_idle ho hp hsilent n

/-! ## PinFault (R233) -/

/-- Only DEVRST and PROBE drive the pin (R26). -/
theorem Phase.usedBy_drivePhase_iff {level : Bool} {opc : Opc} :
    (drivePhase level).usedBy opc = true ↔ opc = .devrst ∨ opc = .probe := by
  cases level with
  | false | true => cases opc <;> simp [drivePhase, Phase.usedBy]

/-- Settles O30: the phase names the operation, so `run_pinFault` gives the state, whose event stands on the trace before
the drive. -/
theorem pinFaultAbandons : Obligations.PinFaultAbandons := by
  intro s level w hi hsilent hp hpin n
  have hphase : s.block.seq.ph = drivePhase level := hp
  have ho : s.block.seq.opc = .devrst ∨ s.block.seq.opc = .probe :=
    Phase.usedBy_drivePhase_iff.mp (hphase ▸ hi.phase_of_operation)
  obtain ⟨-, htrace, -, -⟩ := World.nextPinAnswer_frame hpin
  rw [run_pinFault level ho hphase hsilent hpin n, ← htrace]
  rfl

/-! ## Overrun (R37, R235) -/

/-- A busy block turns every command away (R41). -/
theorem exec_busy (i : Instr) (h : s.block.flags.busy = true) : exec i s = .next s.overrun := by
  rw [exec_eq, State.takeCommand_busy _ h]

theorem State.takeIllegal_busy (h : s.block.flags.busy = true) : s.takeIllegal = s.overrun := by
  simp [State.takeIllegal, h]

/-- A busy block drops every word written to `CMD`, legal or not (R41). -/
theorem writeCmd_busy (w : Word) (h : s.block.flags.busy = true) : writeCmd w s = .next s.overrun := by
  rcases writeCmd_cases w s with ⟨i, -, hw⟩ | ⟨e, -, hw⟩
  · rw [hw, exec_busy i h]
  · rw [hw, State.takeIllegal_busy h]

/-- A host write at `CMD`'s offset is a `CMD` write. -/
theorem step_writeCmd {w : Word} (h : s.world.host = .write HostReg.cmd.offset w :: rest) :
    step s = writeCmd w (s.withTurns rest) := by
  rw [step_write h, hostWrite, hostRegAt_offset]

/-- Settles O9: `exec`, `CMD` and the configuration registers each end in `State.overrun` of a busy block. -/
theorem busyWritesOverrun : Obligations.BusyWritesOverrun := by
  refine fun s hbusy => ⟨fun i => exec_busy i hbusy, fun off v rest hturn hoff => ?_⟩
  have hbusy' : (s.withTurns rest).block.flags.busy = true := hbusy
  rcases hoff with rfl | ⟨c, rfl⟩
  · exact (step_writeCmd hturn).trans (writeCmd_busy v hbusy')
  · rw [step_writeCfg hturn, writeCfg_busy c v hbusy']
    rfl

end Sys2Proof.Machine
end

section
/-! PROOFS. A block reset (R260 to R262) and a missing response (R265, R277, U15): a phase whose collaborator is silent can
only wait, one whose collaborator answers has its event, and a block reset carries out no more than that. -/

namespace Sys2Proof.Machine

variable {P : Params} {s t : State} {c : Collaborator} {rest : List HostTurn}

/-! ## A request to a silent collaborator -/

@[simp] theorem State.withTurns_silent (turns : List HostTurn) (c : Collaborator) (s : State) :
    (s.withTurns turns).silent c ↔ s.silent c := by
  cases c <;> exact Iff.rfl

/-- Every other row of a phase with a request takes an answer from the phase's collaborator (R277, U15). -/
theorem SeqRow.eq_requesting {ph : Phase} {opc : Opc} (h : SeqRow P s ph opc t) (hc : ph.collaborator = some c)
    (hl : s.silent c) : t = { s with block := s.block.requesting P } := by
  have not_silent : ∀ k, ph.collaborator = some k → ¬s.silent k → False := fun k hk hne => by
    obtain rfl : c = k := Option.some.inj (hc.symm.trans hk)
    exact hne hl
  cases h with
  | unanswered => rfl
  | waits | probeDone | sweepEnds | rowEnds | nextPair => simp [Phase.collaborator] at hc
  | hit _ _ _ hw | miss _ _ _ hw | written _ _ _ _ hw | readDone _ _ hw | absent _ _ hw | present _ _ hw =>
    exact (not_silent .bus rfl (World.left_ne_zero_of_answer hw)).elim
  | drive _ _ _ _ _ _ hrow hw =>
    refine (not_silent .gpio ?_ (World.left_ne_zero_of_answer hw)).elim
    rcases hrow with ⟨-, rfl, -⟩ | ⟨-, rfl, -⟩ <;> rfl
  | pinFault _ _ _ _ _ hrow hw =>
    refine (not_silent .gpio ?_ (World.left_ne_zero_of_answer hw)).elim
    rcases hrow with ⟨-, rfl⟩ | ⟨-, rfl⟩ <;> rfl
  | waitedLow _ _ _ hw | resetDone _ hw | toSweeps _ hw =>
    exact (not_silent .delay rfl (World.serves_some hw).1).elim
  | hitReported _ _ hw | scanFlushed _ hw | valueReported _ hw | marked _ hw | flushed _ hw =>
    exact (not_silent .sink rfl (World.serves_some hw).1).elim

/-- The sequencer's step in a phase with a request to a silent collaborator: it waits. -/
theorem seqStep_silent (hu : s.block.seq.ph.usedBy s.block.seq.opc = true)
    (ha : s.block.seq.ph = .sProbe ∨ s.block.seq.ph = .sHit → s.block.seq.a.toNat ≤ 127)
    (hc : s.block.seq.ph.collaborator = some c) (hl : s.silent c) :
    seqStep P s = .next { s with block := s.block.requesting P } := by
  obtain ⟨t, ht⟩ := seqStep_isNext (P := P) hu ha fun hp => by simp [hp, Phase.collaborator] at hc
  rw [ht, (seqStep_next ht).2.eq_requesting hc hl]

/-- Waiting populates the descriptor of a bus request and of no other (R23, R137). -/
theorem Block.requesting_valid_iff {b : Block} (hc : b.seq.ph.collaborator = some c) :
    (b.requesting P).desc.valid = true ↔ c = .bus ∨ b.desc.valid = true := by
  by_cases hbus : c = .bus
  · subst hbus
    cases hp : b.seq.ph with
    | sProbe | gWrite | gRead => simp [Block.requesting, hp]
    | _ => simp [Phase.collaborator, hp] at hc
  · rw [Block.requesting_eq (by simpa [hc] using hbus)]
    simp [hbus]

/-! ## A block reset as a step -/

theorem step_reset {carriedOut : Bool} (h : s.world.host = .reset carriedOut :: rest) :
    step s = .next (blockReset Config.params carriedOut (s.withTurns rest)) :=
  stepWith_reset Config.params h

theorem carriedOutWorld_next (h : seqStep P s = .next t) : carriedOutWorld P s = t.world := by
  rw [carriedOutWorld, h]

/-- A request that is not answered leaves the world as it is, carried out or not. -/
theorem carriedOutWorld_silent (hc : s.block.seq.ph.collaborator = some c) (hl : s.silent c) :
    carriedOutWorld P s = s.world := by
  rcases carriedOutWorld_cases P s with ⟨t, ht, hw⟩ | hw
  · rw [hw, (seqStep_next ht).2.eq_requesting hc hl]
  · exact hw

theorem blockReset_silent (carriedOut : Bool) (hc : s.block.seq.ph.collaborator = some c) (hl : s.silent c) :
    blockReset P carriedOut s = { block := Block.reset P, world := s.world } := by
  simp [blockReset, carriedOutWorld_silent hc hl]

theorem carriedOutWorld_host (P : Params) (s : State) : (carriedOutWorld P s).host = s.world.host := by
  rcases carriedOutWorld_cases P s with ⟨t, ht, hw⟩ | hw
  · rw [hw, seqStep_host ht]
  · rw [hw]

/-- Carrying the outstanding request out leaves no event, or the one that answers the phase's port call (R261). -/
theorem carriedOutWorld_trace (P : Params) (s : State) : (carriedOutWorld P s).trace = s.world.trace ∨
    ∃ e, (carriedOutWorld P s).trace = s.world.trace ++ [e] ∧ s.block.portCall P = some e.call := by
  rcases carriedOutWorld_cases P s with ⟨t, ht, hw⟩ | hw
  · rw [hw]
    rcases (seqStep_next ht).2.call_cases rfl with ⟨-, hworld⟩ | ⟨-, -, -, rfl⟩ | ⟨e, hcall, htrace⟩
    · exact .inl (by rw [hworld])
    · exact .inl rfl
    · exact .inr ⟨e, htrace, hcall⟩
  · exact .inl (by rw [hw])

/-- Settles O17: the world after the reset is the one the turn left, or `carriedOutWorld`. -/
theorem blockResetAbandons : Obligations.BlockResetAbandons := by
  intro s carriedOut rest hturn
  refine ⟨_, step_reset hturn, rfl, ?_⟩
  cases carriedOut with
  | false => exact ⟨rfl, .inl rfl⟩
  | true =>
    refine ⟨carriedOutWorld_host _ _, ?_⟩
    rcases carriedOutWorld_trace Config.params (s.withTurns rest) with htrace | ⟨e, htrace, hcall⟩
    · exact .inl htrace
    · exact .inr ⟨e, rfl, htrace, hcall⟩

/-! ## Releasing a held bus (R56, R262) -/

/-- A request with `stop = 1` on a bus releases it, held or not (R56). -/
theorem heldAfter_releases {bus : Byte} {e : PortEvent} (h : e.releases bus = true) (held : Bool) :
    heldAfter bus held e = false := by
  cases e with
  | bw | br =>
    obtain ⟨rfl, rfl⟩ : _ = bus ∧ _ = true := by simpa [PortEvent.releases] using h
    simp [heldAfter]
  | _ => simp [PortEvent.releases] at h

/-- The requests of a scan probe and of a read phase have `stop = 1` (R163, R196). -/
theorem Block.portCall_releases {b : Block} {e : PortEvent} (hp : b.seq.ph = .sProbe ∨ b.seq.ph = .gRead)
    (he : b.portCall P = some e.call) : e.releases b.latch.bus = true := by
  cases e with
  | bw | br => rcases hp with hp | hp <;> simp_all [Block.portCall, PortEvent.call, PortEvent.releases]
  | _ => rcases hp with hp | hp <;> simp [Block.portCall, PortEvent.call, hp] at he

/-- A scan probe or read phase that the bus answers leaves its bus free. -/
theorem seqStep_releases (hu : s.block.seq.ph.usedBy s.block.seq.opc = true) (hl : ¬s.silent .bus)
    (hp : (s.block.seq.ph = .sProbe ∧ s.block.seq.a.toNat ≤ 127) ∨ s.block.seq.ph = .gRead) :
    ∃ t, seqStep P s = .next t ∧ heldBy t.world.trace s.block.latch.bus = false := by
  have hphase : s.block.seq.ph = .sProbe ∨ s.block.seq.ph = .gRead := hp.imp_left And.left
  have hc : s.block.seq.ph.collaborator = some .bus := by rcases hphase with h | h <;> rw [h] <;> rfl
  have ha : s.block.seq.ph = .sProbe ∨ s.block.seq.ph = .sHit → s.block.seq.a.toNat ≤ 127 := by
    rcases hp with ⟨-, ha⟩ | hread
    · exact fun _ => ha
    · simp [hread]
  obtain ⟨t, ht⟩ := seqStep_isNext (P := P) hu ha fun hnext => by simp [hnext] at hphase
  refine ⟨t, ht, ?_⟩
  rcases (seqStep_next ht).2.call_cases rfl with ⟨hnone, -⟩ | ⟨k, hk, hsilent, -⟩ | ⟨e, hcall, htrace⟩
  · simp [hc] at hnone
  · obtain rfl : .bus = k := Option.some.inj (hc.symm.trans hk)
    exact absurd hsilent hl
  · rw [htrace, heldBy_concat, heldAfter_releases (Block.portCall_releases hphase hcall)]

/-- Settles O18: the reset leaves the hold of the write phase, unless the carried-out read is answered, which releases the
bus as every answered request with `stop = 1` does. -/
theorem blockResetMayLeaveBusHeld : Obligations.BlockResetMayLeaveBusHeld := by
  refine ⟨fun s carriedOut rest hi hheld hp hturn => ⟨_, step_reset hturn, rfl, ?reset⟩,
    fun u hi hl hp => seqStep_releases hi.phase_of_operation hl hp, fun u v bus e _ htrace he => ?release⟩
  case reset =>
    have hbus : heldBy s.world.trace s.block.latch.bus = true := (hheld _).mpr ⟨hp, rfl⟩
    have hc : (s.withTurns rest).block.seq.ph.collaborator = some .bus := congrArg Phase.collaborator hp
    cases carriedOut with
    | false => simpa [blockReset] using hbus
    | true =>
      by_cases hl : s.silent .bus
      · rw [blockReset_silent (s := s.withTurns rest) true hc hl]
        simpa [hl] using hbus
      · obtain ⟨t, ht, hfree⟩ := seqStep_releases (P := Config.params) (s := s.withTurns rest) hi.phase_of_operation hl
          (.inr hp)
        have hworld : (blockReset Config.params true (s.withTurns rest)).world = t.world := carriedOutWorld_next ht
        simpa [hworld, hl] using hfree
  case release => rw [htrace, heldBy_concat, heldAfter_releases he]

/-! ## The wait for a silent collaborator (R265, R277, U15) -/

/-- A legal machine that waits for `c` in the position `q`, with the trace so far, and no block reset to come. -/
structure Stalled (c : Collaborator) (q : Sequencer) (trace : List PortEvent) (s : State) : Prop where
  legal : BlockInv Config.params s.block
  seq_eq : s.block.seq = q
  waits_for : q.ph.collaborator = some c
  silent : s.silent c
  trace_eq : s.world.trace = trace
  no_reset : ∀ turn ∈ s.world.host, turn.isReset = false

variable {q : Sequencer} {trace : List PortEvent}

/-- Only an idle block has `PH_IDLE`, which waits for no collaborator. -/
theorem Stalled.busy (h : Stalled c q trace s) : s.block.flags.busy = true := by
  by_contra hb
  obtain ⟨-, hp⟩ := h.legal.phase.idle (by simpa using hb)
  have hc := h.waits_for
  simp [← h.seq_eq, hp, Phase.collaborator] at hc

/-- The sequencer's turn is the wait of `seqStep_silent`. -/
theorem Stalled.seqStep (h : Stalled c q trace s) :
    ∃ t, Machine.seqStep Config.params s = .next t ∧ Stalled c q trace t := by
  have ht : Machine.seqStep Config.params s = .next { s with block := s.block.requesting Config.params } :=
    seqStep_silent h.legal.phase.phase_of_operation h.legal.counters.a_probed (h.seq_eq ▸ h.waits_for) h.silent
  exact ⟨_, ht, h.legal.seqStep ht, by simpa using h.seq_eq, h.waits_for, h.silent, h.trace_eq, h.no_reset⟩

@[simp] theorem State.disturbed_silent (d : Disturbance) (c : Collaborator) (s : State) :
    (s.disturbed d).silent c ↔ s.silent c := by
  cases c <;> exact Iff.rfl

/-- A host access to a busy block is only a disturbance. -/
theorem Stalled.access {turn : HostTurn} (h : Stalled c q trace s) (ha : turn.isAccess = true) :
    ∃ t, takeTurn Config.params turn s = .next t ∧ Stalled c q trace t := by
  obtain ⟨d, ht, hhost⟩ := access_busy (P := Config.params) ha h.busy
  refine ⟨_, ht, h.legal.turn (takeTurn_next ht), h.seq_eq, h.waits_for, by simpa using h.silent,
    h.trace_eq, ?_⟩
  exact fun turn hturn => h.no_reset turn (hhost ▸ hturn)

/-- The host's next turn leaves the turns after it. -/
theorem Stalled.withTurns {turn : HostTurn} (h : Stalled c q trace s) (hturn : s.world.host = turn :: rest) :
    turn.isReset = false ∧ Stalled c q trace (s.withTurns rest) := by
  obtain ⟨hfirst, hrest⟩ := List.forall_mem_cons.mp (hturn ▸ h.no_reset)
  exact ⟨hfirst, h.legal, h.seq_eq, h.waits_for, by simpa using h.silent, h.trace_eq, hrest⟩

theorem Stalled.step (h : Stalled c q trace s) : ∃ t, Machine.step s = .next t ∧ Stalled c q trace t := by
  cases hhost : s.world.host with
  | nil => rw [step_silent hhost]; exact h.seqStep
  | cons turn rest =>
    obtain ⟨hreset, hrest⟩ := h.withTurns hhost
    rw [step_turn hhost]
    cases turn with
    | seq => exact hrest.seqStep
    | read | write => exact hrest.access rfl
    | reset => simp [HostTurn.isReset] at hreset

theorem Stalled.run (n : Nat) {s : State} (h : Stalled c q trace s) :
    ∃ t, Machine.run n s = .next t ∧ Stalled c q trace t := by
  induction n generalizing s with
  | zero => exact ⟨s, rfl, h⟩
  | succ n ih =>
    obtain ⟨u, hu, hstalled⟩ := h.step
    rw [run_succ hu]
    exact ih hstalled

/-- Settles O33: every run keeps `Stalled`; the sequencer's turn waits, and a block reset finds no event to add. -/
theorem silentCollaboratorStalls : Obligations.SilentCollaboratorStalls := by
  refine fun s c hc hl => ⟨fun n hi hreset => ?stalls, fun P hu ha => ⟨seqStep_silent hu ha hc hl,
    Block.requesting_valid_iff hc⟩, fun carriedOut rest hturn => ?reset⟩
  case stalls =>
    have hs : Stalled c s.block.seq s.world.trace s := ⟨hi, rfl, hc, hl, rfl, hreset⟩
    obtain ⟨t, ht, h⟩ := hs.run n
    exact ⟨t, ht, h.seq_eq, h.busy, h.silent, h.trace_eq⟩
  case reset =>
    rw [step_reset hturn,
      blockReset_silent (s := s.withTurns rest) carriedOut hc (by simpa using hl)]
    rfl

end Sys2Proof.Machine
end
